-- ==== Sys2Proof/Word.lean ====
section
/-!
DEFINITION. The word types of SSBSEQ (20_memory.md R60, R61): bytes of DMEM and 32-bit words.
Everything with arithmetic in it stands under Machine/, where a repair can mend it.
-/

namespace Sys2Proof

/-- One byte of DMEM (R60). -/
abbrev Byte := BitVec 8

/-- One 32-bit word: a DMEM word (R61), a host-visible register (R21) or a command word (R90). -/
abbrev Word := BitVec 32

end Sys2Proof
end

