-- ==== Sys2Proof/Config.lean ====
section
/-!
DEFINITION. What the spec fixes as a constant (00_scope.md R7), what it leaves OPEN as a parameter of the
model (R7, 93_implementation_defined.md U15, U16, U2), and the free values: every value the spec
calls unspecified or any value is an opaque constant applied to a plain counter, with no body.
-/

namespace Sys2Proof

/-- The Gold-sequence discard length (R7). -/
def Config.nC : Nat := 1600

/-- The largest legal `CFG.N_RB` (R7, R28). -/
def Config.nRbMax : Nat := 275

/-- The largest legal `CFG.L_MAX` (R28). -/
def Config.lMaxMax : Nat := 64

/-- The integer code of the real value +1.0 in a sample component (R7). -/
def Config.one : Int := 16384

/-- The integer code of 1/sqrt(2) in a sample component (R7). -/
def Config.aQpsk : Int := 11585

/-- Subcarriers in an SSB (R7). -/
def Config.ssbK : Nat := 240

/-- OFDM symbols in an SSB (R7). -/
def Config.ssbL : Nat := 4

/-- Length of the PSS and of the SSS (R7). -/
def Config.seqLen : Nat := 127

/-- PBCH symbols per SSB (R7). -/
def Config.pbchLen : Nat := 432

/-- DM-RS symbols per SSB (R7). -/
def Config.dmrsLen : Nat := 144

/-- The constant the `ID` register holds (R21). -/
def Config.idValue : Word := 0x53534201#32

/-- The parameters a model of SSBSEQ takes (R7). They are fixed for the machine: no step changes them.
The OPEN ones are data here, so that every statement about all states holds for every value of them. -/
structure Params where
  /-- `DMEM_SIZE`, OPEN: the valid DMEM bytes are `[0, dmemSize)` (R7, R60). -/
  dmemSize : Nat
  /-- `MMIO_BASE`, OPEN: the host address of register offset 0x000 (R7, R21). -/
  mmioBase : Nat
  /-- `PSS_SEED`: bit `i` is `x[i]` of the PSS M-sequence (R7, R127). -/
  pssSeed : BitVec 7
  /-- `SSS_SEED`: bit `i` is `x[i]` of both SSS M-sequences (R7, R130). -/
  sssSeed : BitVec 7
  /-- The parts of DMEM, as (start, length in bytes), behind which the platform has put side-effecting
  devices and not plain memory. R75 puts them outside the spec; the model refuses a command that
  would reach one (U2). -/
  deviceWindows : List (Nat × Nat)
  deriving DecidableEq, Repr

/-- What R7 asks of the OPEN parameters: `DMEM_SIZE` a positive multiple of 4, at most 2^32, and
`MMIO_BASE` a multiple of 0x100. -/
abbrev Params.wf (p : Params) : Prop :=
  0 < p.dmemSize ∧ p.dmemSize % 4 = 0 ∧ p.dmemSize ≤ 2 ^ 32 ∧ p.mmioBase % 0x100 = 0

/-- The parameters of `State.reset`. The seeds are R7's; `DMEM_SIZE` is the one the vectors of
95_test_vectors.md use (DESIGN CHOICE, log 1), and no device stands behind DMEM (R294 step 1). -/
def Params.standard : Params where
  dmemSize := 0x100000
  mmioBase := 0
  pssSeed := 0b0000001#7
  sssSeed := 0b1000000#7
  deviceWindows := []

/-- FREE VALUE: the byte of DMEM at an address that nothing has written since power-on
(U13: any value; R292). Log 2. -/
opaque Config.powerOnByte : Nat → Byte

/-- FREE VALUE: the n-th byte that the spec says takes any value (U3, U4). Log 3. -/
opaque Config.freeByte : Nat → Byte

/-- FREE VALUE: the n-th 32-bit value that the spec says is unspecified (`BUF` after reset, U5). Log 3. -/
opaque Config.freeWord : Nat → Word

/-- FREE VALUE: the n-th result-register value that the spec says is any value (U3). Log 3. -/
opaque Config.freeDword : Nat → BitVec 64

end Sys2Proof
end

