-- ==== Sys2Proof/Syntax.lean ====
section
/-!
DEFINITION. The commands of SSBSEQ: one constructor per row of the opcode map (30_encoding.md R92).
A command's arguments are the immediate fields of its format (R90), each the unsigned integer R91 makes
of it. Whether a field's value fits its width is WellFormed's question.
-/

namespace Sys2Proof

/-- The 17 commands of R92, in the table's order. -/
inductive Instr where
  /-- 0x00, format N (R121). -/
  | nop
  /-- 0x01, format N (R125). -/
  | prsg
  /-- 0x02, format T, `F2` = NID2 (R129). -/
  | pssGen (nid2 : Nat)
  /-- 0x03, format S (R133). -/
  | sssGen (nid1 nid2 : Nat)
  /-- 0x04, format D (R137). -/
  | dmrsGen (ncell issb nhf : Nat)
  /-- 0x10, format N (R152). -/
  | qpskMod
  /-- 0x11, format N (R156). -/
  | qpskDemod
  /-- 0x20, format N (R175). -/
  | mapPss
  /-- 0x21, format N (R176). -/
  | mapSss
  /-- 0x22, format T, `F2` = NU (R177). -/
  | mapPbch (nu : Nat)
  /-- 0x23, format N (R180). -/
  | unmapSss
  /-- 0x24, format T, `F2` = NU (R183). -/
  | unmapPbch (nu : Nat)
  /-- 0x25, format G (R187). -/
  | ssbGen (nid1 nid2 issb nhf : Nat)
  /-- 0x26, format M (R191). -/
  | mapSsb (koff loff : Nat)
  /-- 0x30, format R (R211). -/
  | detReset (issb : Nat)
  /-- 0x31, format N (R220). -/
  | detStep
  /-- 0x32, format T, `F2` = NID2 (R223). -/
  | decodeSss (nid2 : Nat)
  deriving DecidableEq, Repr

/-- Why a command word does not decode (R96). Both are reported as ILLEGAL_CMD (R251). -/
inductive DecodeReject where
  /-- The opcode is not in the table of R92 (R93). -/
  | reservedOpcode
  /-- A bit that the format marks must-be-zero is 1 (R94). -/
  | mustBeZero
  deriving DecidableEq, Repr

/-- What the decode function of R96 answers on a command word. -/
inductive Decoded where
  /-- The word is this command. -/
  | instr (i : Instr)
  /-- The word is no command, for this reason. -/
  | illegal (r : DecodeReject)
  deriving DecidableEq, Repr

end Sys2Proof
end

