-- ==== Sys2Proof/Machine/State.lean ====
section
/-!
DEFINITION. Everything the spec gives the machine, as plain data (10_state.md; INVENTORY.md lists each
field with its rule). A register is held as its fields, so that every bit R22 to R38 call RAZ/WI has
no storage; the 32-bit views are in Machine/Flags.lean and Machine/Host.lean.
-/

namespace Sys2Proof.Machine

/-- DMEM (R60): the bytes written so far, by address. An address that is not listed holds no written value;
what it reads as is `State.byteAt`'s business. Canonical form: `Memory.wf` in Machine/Memory.lean. -/
abbrev Memory := List Host.Cell

/-- A sample (R14): the 16-bit two's-complement I and Q parts. -/
structure Sample where
  /-- The in-phase (real) part. -/
  i : BitVec 16
  /-- The quadrature (imaginary) part. -/
  q : BitVec 16
  deriving DecidableEq, Repr

/-- `CTRL` (R22): the four interrupt enables. SRST reads 0 and is not stored. -/
structure Ctrl where
  /-- Bit 0. -/
  ieDone : Bool
  /-- Bit 1. -/
  ieErr : Bool
  /-- Bit 2. -/
  ieDet : Bool
  /-- Bit 3. -/
  ieWarn : Bool
  deriving DecidableEq, Repr

/-- `STATUS` (R23). -/
structure Status where
  /-- Bit 0: a command is pending. -/
  busy : Bool
  /-- Bit 1: the last accepted command completed successfully. -/
  done : Bool
  /-- Bit 2: a command failed, not yet acknowledged. -/
  err : Bool
  /-- Bit 3: the detector has emitted. -/
  detValid : Bool
  /-- Bit 4: a `CMD` write was dropped. -/
  ovr : Bool
  /-- Bit 5: a peak's SSB window did not fit. -/
  peakOob : Bool
  /-- Bit 6: an emission while DET_VALID was 1. -/
  detOvf : Bool
  /-- Bits 11:8: the error code of R251. -/
  errCode : BitVec 4
  deriving DecidableEq, Repr

/-- `CFG` (R28). A field stores every value written to it, legal or not. -/
structure Cfg where
  /-- Bits 8:0. -/
  nRb : BitVec 9
  /-- Bits 18:16. -/
  mu : BitVec 3
  /-- Bits 30:24. -/
  lMax : BitVec 7
  deriving DecidableEq, Repr

/-- The snapshot `S` taken when a command is accepted (R42, R49). -/
structure Snapshot where
  /-- The command word. -/
  cmdw : Word
  /-- `SRC0` at acceptance. -/
  src0 : Word
  /-- `SRC1` at acceptance. -/
  src1 : Word
  /-- `DST0` at acceptance. -/
  dst0 : Word
  /-- `DST1` at acceptance. -/
  dst1 : Word
  /-- `LEN` at acceptance. -/
  len : Word
  /-- `CINIT` at acceptance. -/
  cinit : BitVec 31
  /-- `CFG` at acceptance. -/
  cfg : Cfg
  /-- `{THRESH_HI, THRESH_LO}` at acceptance. -/
  thresh : BitVec 64
  deriving DecidableEq, Repr

/-- `symbols_remaining` (R41): SREM = -1 is SEARCHING, SREM = k is COLLECTING(k). -/
inductive Srem where
  /-- SREM = -1. -/
  | searching
  /-- SREM = k, `k` in 0 to 3. -/
  | collecting (k : Fin 4)
  deriving DecidableEq, Repr

/-- The detector state (R41). -/
structure Detector where
  /-- `SREM`. -/
  srem : Srem
  /-- `NID2`, in [0, 2]. -/
  nid2 : BitVec 2
  /-- `KSSB`, in [0, 4095]. -/
  kssb : BitVec 12
  /-- `ISSB`, the running counter, in [0, 63]. -/
  issb : BitVec 6
  /-- `BUF`, 240 × 4 samples: `BUF[k, c]` is entry `240·c + k`. -/
  buf : List Sample
  deriving DecidableEq, Repr

/-- `DET_RES` (R31). -/
structure DetRes where
  /-- Bits 1:0. -/
  nid2 : BitVec 2
  /-- Bits 13:8. -/
  issb : BitVec 6
  /-- Bits 27:16. -/
  kssb : BitVec 12
  deriving DecidableEq, Repr

/-- `CORR_POS` (R33). -/
structure CorrPos where
  /-- Bits 1:0. -/
  nid2 : BitVec 2
  /-- Bits 27:16. -/
  shift : BitVec 12
  /-- Bit 31. -/
  swept : Bool
  deriving DecidableEq, Repr

/-- A move of the schedule: what the host does next, or the engine's turn (R20). The host is outside the
block, so its moves are input; the interleaving with the completion step is the schedule's (R43, R310). -/
inductive Move where
  /-- The host writes `v` to `width` bytes at the host address `addr` of the register window (R21, R39). -/
  | regWrite (addr width : Nat) (v : Word)
  /-- The host reads `width` bytes at the host address `addr` of the register window (R21, R39). -/
  | regRead (addr width : Nat)
  /-- The host writes these bytes to DMEM from address `addr` upward (R60, R70). -/
  | dmemWrite (addr : Nat) (bytes : List Byte)
  /-- The host reads `n` bytes of DMEM from address `addr` upward (R60, R70). -/
  | dmemRead (addr n : Nat)
  /-- The engine's turn: the completion step if a command is pending (R43), else nothing. -/
  | engine
  deriving DecidableEq, Repr

/-- The machine. -/
structure State where
  /-- The parameters of R7; no step changes them. -/
  params : Params
  /-- `CTRL` (R22). -/
  ctrl : Ctrl
  /-- `STATUS` (R23). -/
  status : Status
  /-- `SRC0` (R25). -/
  src0 : Word
  /-- `SRC1` (R25). -/
  src1 : Word
  /-- `DST0` (R25). -/
  dst0 : Word
  /-- `DST1` (R25). -/
  dst1 : Word
  /-- `LEN` (R26). -/
  len : Word
  /-- `CINIT` bits 30:0 (R27). -/
  cinit : BitVec 31
  /-- `CFG` (R28). -/
  cfg : Cfg
  /-- `THRESH_LO` (R29). -/
  threshLo : Word
  /-- `THRESH_HI` (R29). -/
  threshHi : Word
  /-- The detector (R41), shown in `DET_STATE` (R30). -/
  det : Detector
  /-- `DET_RES` (R31). -/
  detRes : DetRes
  /-- `{CORR_HI, CORR_LO}` (R32). -/
  corr : BitVec 64
  /-- `CORR_POS` (R33). -/
  corrPos : CorrPos
  /-- `SSS_RES` bits 8:0 (R34). -/
  sssRes : BitVec 9
  /-- `{SSS_CORR_HI, SSS_CORR_LO}` (R35). -/
  sssCorr : BitVec 64
  /-- `ERR_INFO` (R36). -/
  errInfo : Word
  /-- `ERR_CMD` (R37). -/
  errCmd : Word
  /-- The snapshot `S` (R42). It is the pending command's while BUSY = 1; no rule reads it while BUSY = 0. -/
  snap : Snapshot
  /-- DMEM (R60). -/
  mem : Memory
  /-- MODEL: the moves still to come, oldest first. When it is empty the engine moves (R310: fair). -/
  script : List Move
  /-- MODEL: what the host's last register read returned. -/
  regRd : Word
  /-- MODEL: the bytes the host's last DMEM read returned. -/
  dmemRd : List Byte
  /-- MODEL: the host has written to a region of the last accepted command while it was pending (R72, R300,
  U3). Acceptance clears it. -/
  raced : Bool
  /-- MODEL: how many free values have been used. -/
  freeCtr : Nat
  deriving DecidableEq, Repr

/-- Why a step stops with a fault. -/
inductive Fault where
  /-- Raised by the model's host DMEM moves: the host names a byte outside `[0, DMEM_SIZE)`, an address that
  R60 says is not valid in DMEM. Safe: the model stops. -/
  | hostOutsideDmem
  deriving DecidableEq, Repr

/-- Why a step has no meaning. -/
inductive Refusal where
  /-- Raised by `exec` for an instruction that has no meaning yet. Safe. -/
  | notModelled (mnemonic : String)
  /-- Raised by a host register access that is not an aligned 32-bit one (R39, U1: a model refuses it).
  Safe: the spec gives it no effect. -/
  | registerAccess
  /-- Raised by the completion of a command whose regions reach a device window of DMEM (R75, U2: a model
  refuses such a command). Safe: the spec gives it no effect. -/
  | deviceRegion
  deriving DecidableEq, Repr

/-- A sample read from a 32-bit word (R64). -/
def Sample.ofWord (w : Word) : Sample := ⟨w.extractLsb' 0 16, w.extractLsb' 16 16⟩

/-- `BUF` with unspecified content (R46, U5): free values from the `n`-th on. -/
def unspecifiedBuf (n : Nat) : List Sample :=
  (List.range 960).map fun k => Sample.ofWord (Config.freeWord (n + k))

/-- The registers' and the detector's reset values (R46, R290), for a machine with parameters `p`: the state in
which the block leaves power-on reset, with nothing written to DMEM and no move to come. -/
def State.powerOn (p : Params) : State where
  params := p
  ctrl := ⟨false, false, false, false⟩
  status := ⟨false, false, false, false, false, false, false, 0#4⟩
  src0 := 0#32
  src1 := 0#32
  dst0 := 0#32
  dst1 := 0#32
  len := 0#32
  cinit := 0#31
  cfg := ⟨0#9, 0#3, 0#7⟩
  threshLo := 0xFFFFFFFF#32
  threshHi := 0xFFFFFFFF#32
  det := ⟨.searching, 0#2, 0#12, 0#6, unspecifiedBuf 0⟩
  detRes := ⟨0#2, 0#6, 0#12⟩
  corr := 0#64
  corrPos := ⟨0#2, 0#12, false⟩
  sssRes := 0#9
  sssCorr := 0#64
  errInfo := 0#32
  errCmd := 0#32
  snap := ⟨0#32, 0#32, 0#32, 0#32, 0#32, 0#32, 0#31, ⟨0#9, 0#3, 0#7⟩, 0#64⟩
  mem := []
  script := []
  regRd := 0#32
  dmemRd := []
  raced := false
  freeCtr := 960

/-- The machine right after power-on reset (R46, R290). -/
def State.reset : State := State.powerOn Params.standard

end Sys2Proof.Machine
end

