-- ==== Sys2Proof/Machine/Flags.lean ====
section
/-!
DEFINITION. The block's flags: the bits of `STATUS` (10_state.md R23, R45), their views and updates, `CTRL`, and
the interrupt line (R48).
-/

namespace Sys2Proof.Machine

/-- `STATUS` as the host reads it (R23). -/
def Status.word (t : Status) : Word :=
  0#20 ++ t.errCode ++ 0#1 ++ BitVec.ofBool t.detOvf ++ BitVec.ofBool t.peakOob ++ BitVec.ofBool t.ovr
    ++ BitVec.ofBool t.detValid ++ BitVec.ofBool t.err ++ BitVec.ofBool t.done ++ BitVec.ofBool t.busy

/-- A host write of `w` to `STATUS` (R23): each W1C bit that `w` names is cleared, ERR_CODE with ERR. -/
def Status.w1c (t : Status) (w : Word) : Status where
  busy := t.busy
  done := t.done && !w.getLsbD 1
  err := t.err && !w.getLsbD 2
  detValid := t.detValid && !w.getLsbD 3
  ovr := t.ovr && !w.getLsbD 4
  peakOob := t.peakOob && !w.getLsbD 5
  detOvf := t.detOvf && !w.getLsbD 6
  errCode := if w.getLsbD 2 then 0#4 else t.errCode

/-- `CTRL` as the host reads it (R22): SRST reads 0. -/
def Ctrl.word (c : Ctrl) : Word :=
  0#28 ++ BitVec.ofBool c.ieWarn ++ BitVec.ofBool c.ieDet ++ BitVec.ofBool c.ieErr ++ BitVec.ofBool c.ieDone

/-- `CTRL` after a host write of `w` with bit 31 = 0 (R22). -/
def Ctrl.ofWord (w : Word) : Ctrl := ⟨w.getLsbD 0, w.getLsbD 1, w.getLsbD 2, w.getLsbD 3⟩

/-- The interrupt output `IRQ`: a level derived from the state (R48, R260). -/
def State.irq (s : State) : Bool :=
  (s.status.done && s.ctrl.ieDone) || (s.status.err && s.ctrl.ieErr) || (s.status.detValid && s.ctrl.ieDet)
    || ((s.status.ovr || s.status.peakOob || s.status.detOvf) && s.ctrl.ieWarn)

/-- `STATUS.PEAK_OOB <- 1` (R216). -/
def State.setPeakOob (s : State) : State := { s with status := { s.status with peakOob := true } }

/-- An emission's flags (R219): DET_OVF if DET_VALID was already 1, then DET_VALID. -/
def State.setDetValid (s : State) : State :=
  { s with status := { s.status with detOvf := s.status.detOvf || s.status.detValid, detValid := true } }

/-- A dropped `CMD` write (R42): OVR and nothing else. -/
def State.setOvr (s : State) : State := { s with status := { s.status with ovr := true } }

end Sys2Proof.Machine
end

