-- ==== Sys2Proof/Machine/Memory.lean ====
section
/-!
DEFINITION. DMEM (20_memory.md R60, R61): its canonical form, reading and writing bytes and words, and the
sample, bit-vector and grid formats (R64, R65, R66).
-/

namespace Sys2Proof.Machine

/-- The canonical form of a memory: addresses strictly rising, so one entry an address. An unlisted address has no
written value, so no entry can equal what it reads as. -/
abbrev Memory.wf (m : Memory) : Prop := m.Pairwise fun x y => x.1 < y.1

/-- The byte written at address `a`, if any. -/
def Memory.byte? : Memory → Nat → Option Byte
  | [], _ => none
  | (x, b) :: m, a => if x = a then some b else Memory.byte? m a

/-- Consecutive cells from address `a` upward. -/
def cellsFrom : Nat → List Byte → Memory
  | _, [] => []
  | a, b :: bs => (a, b) :: cellsFrom (a + 1) bs

/-- Write consecutive bytes from address `a` upward, keeping the canonical form. -/
def Memory.writeBytes (m : Memory) (a : Nat) (bs : List Byte) : Memory :=
  m.filter (fun c => c.1 < a) ++ cellsFrom a bs ++ m.filter (fun c => a + bs.length ≤ c.1)

/-- The bytes of a word, lowest address first: little-endian (R61, R70). -/
def wordBytes (v : Word) : List Byte :=
  [v.extractLsb' 0 8, v.extractLsb' 8 8, v.extractLsb' 16 8, v.extractLsb' 24 8]

/-- Write consecutive words from address `a` upward (R61, R64): each in its byte order. -/
def Memory.writeWords (m : Memory) (a : Nat) (ws : List Word) : Memory :=
  m.writeBytes a (ws.flatMap wordBytes)

/-- The byte of DMEM at address `a`. A byte that nothing has written is a free value (U13). -/
def State.byteAt (s : State) (a : Nat) : Byte := (s.mem.byte? a).getD (Config.powerOnByte a)

/-- `MemRead(a, 4)`: little-endian (R61). -/
def State.memRead (s : State) (a : Nat) : Word :=
  s.byteAt (a + 3) ++ s.byteAt (a + 2) ++ s.byteAt (a + 1) ++ s.byteAt a

/-- Consecutive `MemWrite(_, 4, _)`s from address `a` upward (R61). -/
def State.writeWords (s : State) (a : Nat) (ws : List Word) : State :=
  { s with mem := s.mem.writeWords a ws }

/-- Consecutive bytes written from address `a` upward. -/
def State.writeBytes (s : State) (a : Nat) (bs : List Byte) : State :=
  { s with mem := s.mem.writeBytes a bs }

/-- `word(smp(I, Q)) = {u16(Q), u16(I)}` (R64). -/
def Sample.word (x : Sample) : Word := x.q ++ x.i

/-- `smp(I, Q)` of two integers in range (R10, R14). -/
def smp (i q : Int) : Sample := ⟨BitVec.ofInt 16 i, BitVec.ofInt 16 q⟩

/-- The zero sample (R14). -/
def Sample.zero : Sample := ⟨0#16, 0#16⟩

/-- A bipolar value in the sample format: `smp(d·ONE, 0)` (R14). -/
def bipolar (d : Int) : Sample := smp (d * Config.one) 0

/-- `ReadSamples(base, n)` (R64). -/
def State.readSamples (s : State) (base n : Nat) : List Sample :=
  (List.range n).map fun i => Sample.ofWord (s.memRead (base + 4 * i))

/-- `WriteSamples(base, seq)` (R64). -/
def State.writeSamples (s : State) (base : Nat) (xs : List Sample) : State :=
  s.writeWords base (xs.map Sample.word)

/-- The number of words a vector of `n` bits occupies (R65). -/
def bitWords (n : Nat) : Nat := (n + 31) / 32

/-- `Σ b[j]·2^j` over a list of bits, bit 0 first (R65). -/
def natOfBits : List Bool → Nat
  | [] => 0
  | b :: bs => b.toNat + 2 * natOfBits bs

/-- The words of a bit vector, packed least-significant bit first; the tail of the last word is 0 (R65). -/
def packBits (bs : List Bool) : List Word :=
  (List.range (bitWords bs.length)).map fun w => BitVec.ofNat 32 (natOfBits ((bs.drop (32 * w)).take 32))

/-- `ReadBits(base, n)` (R65). -/
def State.readBits (s : State) (base n : Nat) : List Bool :=
  (List.range n).map fun i => (s.memRead (base + 4 * (i / 32))).getLsbD (i % 32)

/-- `WriteBits(base, seq)` (R65). -/
def State.writeBits (s : State) (base : Nat) (bs : List Bool) : State :=
  s.writeWords base (packBits bs)

/-- An SSB grid in its flattened order (R15, R66): `G[k, l]` is entry `240·l + k`. -/
abbrev Grid := List Sample

/-- The place of subcarrier `k` of symbol `l` in a flattened SSB grid (R66). -/
def gridIndex (p : Nat × Nat) : Nat := 240 * p.2 + p.1

/-- The 240 × 4 grid of `ZERO`. -/
def zeroGrid : Grid := List.replicate 960 Sample.zero

/-- `G[k, l]` (R15). -/
def gridAt (g : Grid) (p : Nat × Nat) : Sample := g.getD (gridIndex p) Sample.zero

/-- `G[idx[i]] = xs[i]` for every `i`, in order. -/
def place (g : Grid) (idx : List (Nat × Nat)) (xs : List Sample) : Grid :=
  (idx.zip xs).foldl (fun g px => g.set (gridIndex px.1) px.2) g

/-- `[ G[idx[i]] for every i ]`. -/
def gather (g : Grid) (idx : List (Nat × Nat)) : List Sample := idx.map (gridAt g)

/-- `ReadGrid(base)` (R66). -/
def State.readGrid (s : State) (base : Nat) : Grid := s.readSamples base 960

/-- `WriteGrid(base, G)` (R66). -/
def State.writeGrid (s : State) (base : Nat) (g : Grid) : State := s.writeSamples base g

end Sys2Proof.Machine
end

