-- ==== Sys2Proof/Machine/Operands.lean ====
section
/-!
DEFINITION. The operand regions of every command (20_memory.md R67), and the checks on them: alignment (R62),
range (R63) and overlap (R68), with the error each raises (60_exceptions.md R251, R252).
-/

namespace Sys2Proof.Machine

/-- The operand address registers (R25). SRC registers name input regions, DST registers output regions. -/
inductive Operand where
  /-- Operand index 0. -/
  | src0
  /-- Operand index 1. -/
  | src1
  /-- Operand index 2. -/
  | dst0
  /-- Operand index 3. -/
  | dst1
  deriving DecidableEq, Repr

/-- The operand's index in `ERR_INFO` (R252). -/
def Operand.index : Operand → Nat
  | .src0 => 0
  | .src1 => 1
  | .dst0 => 2
  | .dst1 => 3

/-- Is the operand's region written (W), not read (R)? (R67) -/
def Operand.isDst : Operand → Bool
  | .src0 => false
  | .src1 => false
  | .dst0 => true
  | .dst1 => true

/-- A region a command names (R67). -/
structure Region where
  /-- The register that names it. -/
  op : Operand
  /-- The register's value in the snapshot, whose alignment is checked (R62). -/
  base : Nat
  /-- The byte address where the region starts (R63): `base`, but for MAP_SSB's `DST0`. -/
  start : Nat
  /-- Its length in words. -/
  words : Nat
  deriving DecidableEq, Repr

/-- A region that starts where its register points. -/
def plainRegion (op : Operand) (reg : Word) (words : Nat) : Region := ⟨op, reg.toNat, reg.toNat, words⟩

/-- `N_SC = 12·N_RB` (R28). -/
def Snapshot.nSc (S : Snapshot) : Nat := 12 * S.cfg.nRb.toNat

/-- `N_SYMB = 14·2^MU·10` (R28). -/
def Snapshot.nSymb (S : Snapshot) : Nat := 14 * 2 ^ S.cfg.mu.toNat * 10

/-- The byte address of `R[k, l]` in the resource grid at `DST0` (R66, R191). -/
def Snapshot.resourceAddr (S : Snapshot) (k l : Nat) : Nat := S.dst0.toNat + 4 * (S.nSc * l + k)

/-- The regions each command names, in the order SRC0, SRC1, DST0, DST1: the table of R67. -/
def namedRegions (i : Instr) (S : Snapshot) : List Region :=
  match i with
  | .nop => []
  | .prsg => [plainRegion .dst0 S.dst0 (bitWords S.len.toNat)]
  | .pssGen _ => [plainRegion .dst0 S.dst0 127]
  | .sssGen _ _ => [plainRegion .dst0 S.dst0 127]
  | .dmrsGen _ _ _ => [plainRegion .dst0 S.dst0 144]
  | .qpskMod => [plainRegion .src0 S.src0 (bitWords S.len.toNat), plainRegion .dst0 S.dst0 (S.len.toNat / 2)]
  | .qpskDemod => [plainRegion .src0 S.src0 S.len.toNat, plainRegion .dst0 S.dst0 (bitWords (2 * S.len.toNat))]
  | .mapPss => [plainRegion .src0 S.src0 127, plainRegion .dst0 S.dst0 960]
  | .mapSss => [plainRegion .src0 S.src0 127, plainRegion .dst0 S.dst0 960]
  | .mapPbch _ => [plainRegion .src0 S.src0 432, plainRegion .src1 S.src1 144, plainRegion .dst0 S.dst0 960]
  | .unmapSss => [plainRegion .src0 S.src0 960, plainRegion .dst0 S.dst0 127]
  | .unmapPbch _ => [plainRegion .src0 S.src0 960, plainRegion .dst0 S.dst0 432, plainRegion .dst1 S.dst1 144]
  | .ssbGen _ _ _ _ => [plainRegion .src0 S.src0 432, plainRegion .dst0 S.dst0 960]
  | .mapSsb koff loff =>
    [plainRegion .src0 S.src0 960, ⟨.dst0, S.dst0.toNat, S.resourceAddr koff loff, 3 * S.nSc + 240⟩]
  | .detReset _ => []
  | .detStep => [plainRegion .src0 S.src0 S.nSc, plainRegion .dst0 S.dst0 960]
  | .decodeSss _ => [plainRegion .src0 S.src0 127]

/-- The error codes of R251 (codes 1 to 7; 0 is NONE). -/
inductive ErrCode where
  /-- Code 1. -/
  | illegalCmd
  /-- Code 2. -/
  | invalidLength
  /-- Code 3. -/
  | invalidParam
  /-- Code 4. -/
  | outOfBounds
  /-- Code 5. -/
  | misaligned
  /-- Code 6. -/
  | memRange
  /-- Code 7. -/
  | overlap
  deriving DecidableEq, Repr

/-- The value of `STATUS.ERR_CODE` (R251). -/
def ErrCode.code : ErrCode → BitVec 4
  | .illegalCmd => 1#4
  | .invalidLength => 2#4
  | .invalidParam => 3#4
  | .outOfBounds => 4#4
  | .misaligned => 5#4
  | .memRange => 6#4
  | .overlap => 7#4

/-- `E(info)` of `raise E(info)` (R13): the error code and the value for `ERR_INFO` (R252). -/
structure CmdError where
  /-- The error. -/
  code : ErrCode
  /-- The detail. -/
  info : Nat
  deriving DecidableEq, Repr

/-- One check: the error it raises if it fails. -/
def check (ok : Bool) (code : ErrCode) (info : Nat) : Option CmdError := if ok then none else some ⟨code, info⟩

/-- The first check that fails decides the error (R255). -/
def firstError : List (Option CmdError) → Option CmdError
  | [] => none
  | some e :: _ => some e
  | none :: rest => firstError rest

/-- Alignment (R62). -/
def Region.aligned (r : Region) : Bool := r.base % 4 = 0

/-- Range (R63): exact arithmetic, no wrap at 2^32. -/
def Region.inRange (r : Region) (dmemSize : Nat) : Bool := r.start + 4 * r.words ≤ dmemSize

/-- Overlap (R68). -/
def Region.overlaps (a b : Region) : Bool :=
  0 < a.words && 0 < b.words && a.start < b.start + 4 * b.words && b.start < a.start + 4 * a.words

/-- The pairs whose overlap is an error, in the order of R252. -/
def overlapPairs : List (Operand × Operand) :=
  [(.src0, .dst0), (.src0, .dst1), (.src1, .dst0), (.src1, .dst1), (.dst0, .dst1)]

/-- The region an operand names, if the command names that operand. -/
def regionOf (rs : List Region) (op : Operand) : Option Region := rs.find? fun r => r.op = op

/-- The overlap check of one pair of operands (R68, R252). -/
def overlapCheck (rs : List Region) (p : Operand × Operand) : Option CmdError :=
  match regionOf rs p.1, regionOf rs p.2 with
  | some a, some b => check (!a.overlaps b) .overlap (p.1.index + 16 * p.2.index)
  | _, _ => none

/-- Steps 5 to 7 of the check order of R255, on the regions a command names: alignment, range, overlap. -/
def regionChecks (rs : List Region) (dmemSize : Nat) : Option CmdError :=
  firstError [firstError (rs.map fun r => check r.aligned .misaligned r.op.index),
    firstError (rs.map fun r => check (r.inRange dmemSize) .memRange r.op.index),
    firstError (overlapPairs.map (overlapCheck rs))]

end Sys2Proof.Machine
end

