-- ==== Sys2Proof/Machine/Ops.lean ====
section
/-!
DEFINITION. The operations every command shares: its checks in the order of 60_exceptions.md R255, the effects of a
failed command (R256, the block's trap entry), the recovery from it (R258, the block's trap return), successful
completion (10_state.md R43) and acceptance (R42).
-/

namespace Sys2Proof.Machine

/-- `CFG.N_RB` is legal (R28). -/
def Snapshot.nRbLegal (S : Snapshot) : Bool := 1 ≤ S.cfg.nRb.toNat && S.cfg.nRb.toNat ≤ Config.nRbMax

/-- `CFG.MU` is legal (R28). -/
def Snapshot.muLegal (S : Snapshot) : Bool := S.cfg.mu.toNat ≤ 4

/-- `CFG.L_MAX` is legal (R28). -/
def Snapshot.lMaxLegal (S : Snapshot) : Bool := 1 ≤ S.cfg.lMax.toNat && S.cfg.lMax.toNat ≤ Config.lMaxMax

/-- The detector's window still fits the configured symbol width, if a collection is in progress (R220). -/
def Detector.windowFits (d : Detector) (nSc : Nat) : Bool :=
  match d.srem with
  | .searching => true
  | .collecting _ => d.kssb.toNat + 240 ≤ nSc

/-- Steps 2 to 4 of the check order of R255, per command: INVALID_PARAM in ascending field order, INVALID_LENGTH,
OUT_OF_BOUNDS with the subcarrier bound before the symbol bound (R252, R254). -/
def fieldChecks (i : Instr) (S : Snapshot) (d : Detector) : List (Option CmdError) :=
  match i with
  | .nop => []
  | .prsg => []
  | .pssGen nid2 => [check (nid2 ≤ 2) .invalidParam 2]
  | .sssGen nid1 nid2 => [check (nid1 ≤ 335) .invalidParam 1, check (nid2 ≤ 2) .invalidParam 2]
  | .dmrsGen ncell _ _ => [check (ncell ≤ 1007) .invalidParam 3, check S.lMaxLegal .invalidParam 6]
  | .qpskMod => [check (S.len.toNat % 2 = 0) .invalidLength 0]
  | .qpskDemod => []
  | .mapPss => []
  | .mapSss => []
  | .mapPbch _ => []
  | .unmapSss => []
  | .unmapPbch _ => []
  | .ssbGen nid1 nid2 _ _ =>
    [check (nid1 ≤ 335) .invalidParam 1, check (nid2 ≤ 2) .invalidParam 2, check S.lMaxLegal .invalidParam 6]
  | .mapSsb koff loff =>
    [check S.nRbLegal .invalidParam 4, check S.muLegal .invalidParam 5, check (koff + 240 ≤ S.nSc) .outOfBounds 1,
      check (loff + 4 ≤ S.nSymb) .outOfBounds 2]
  | .detReset _ => []
  | .detStep =>
    [check S.nRbLegal .invalidParam 4, check S.lMaxLegal .invalidParam 6, check (d.windowFits S.nSc) .outOfBounds 3]
  | .decodeSss nid2 => [check (nid2 ≤ 2) .invalidParam 2]

/-- The error a decoded command raises, if any: every check of R255 after decoding, on the snapshot and the
detector state. -/
def commandError (i : Instr) (s : State) : Option CmdError :=
  firstError (fieldChecks i s.snap s.det ++ [regionChecks (namedRegions i s.snap) s.params.dmemSize])

/-- The effects of a failed command (R256): the block's trap entry. Nothing else changes. -/
def failCommand (s : State) (e : CmdError) : State :=
  { s with
    status := { s.status with busy := false, err := true, errCode := e.code.code }
    errInfo := BitVec.ofNat 32 e.info
    errCmd := s.snap.cmdw }

/-- Recovery (R258), the block's trap return: the host's write of `w` to `STATUS` (R23). Bit 2 of `w` acknowledges
the error and clears ERR_CODE; `ERR_INFO` and `ERR_CMD` keep their values. -/
def acknowledge (s : State) (w : Word) : State := { s with status := s.status.w1c w }

/-- Successful completion (R43): BUSY ← 0, DONE ← 1. -/
def succeedCommand (s : State) : State :=
  { s with status := { s.status with busy := false, done := true } }

/-- The completion step of a decoded command (R43): with no error its effect and success, else failure. -/
def complete (err : Option CmdError) (s : State) (effect : State → State) : State :=
  match err with
  | some e => failCommand s e
  | none => succeedCommand (effect s)

/-- The snapshot of the operand and configuration registers for the command word `w` (R42). -/
def State.takeSnapshot (s : State) (w : Word) : Snapshot where
  cmdw := w
  src0 := s.src0
  src1 := s.src1
  dst0 := s.dst0
  dst1 := s.dst1
  len := s.len
  cinit := s.cinit
  cfg := s.cfg
  thresh := s.threshHi ++ s.threshLo

/-- The effects of accepting the command word `w` (R42). -/
def State.pend (s : State) (w : Word) : State :=
  { s with snap := s.takeSnapshot w, status := { s.status with busy := true, done := false }, raced := false }

/-- A host write of `w` to `CMD` (R42): dropped while BUSY or ERR is 1, else accepted. -/
def acceptCommand (s : State) (w : Word) : State :=
  if s.status.busy || s.status.err then s.setOvr else s.pend w

end Sys2Proof.Machine
end

