-- ==== Sys2Proof/Machine/SeqGen.lean ====
section
/-!
DEFINITION. The sequence generator (40_seqgen.md) and the QPSK mapping it uses (41_modulator.md R151): the pure
functions PRSG, PSS, SSS and DMRS, and the meanings of NOP, PRSG, PSS_GEN, SSS_GEN and DMRS_GEN.
-/

namespace Sys2Proof.Machine

/-- One step of a shift register that holds `x[i .. i+w]` in bits 0 to w: it goes on to hold `x[i+1 .. i+w+1]`,
where `fb` computes `x[i+w+1]` from the register. -/
def shiftNext {w : Nat} (fb : BitVec (w + 1) → Bool) (x : BitVec (w + 1)) : BitVec (w + 1) :=
  BitVec.cons (fb x) (x.extractLsb' 1 w)

/-- `f x` (`evaluated_eq`), written so that Lean's kernel has computed `x` before it goes on: it can then run the 1600
steps of the shift registers without nesting them. -/
def evaluated {w : Nat} {α : Type} (x : BitVec w) (f : BitVec w → α) : α :=
  match x.toNat with
  | 0 => f (BitVec.ofNat w 0)
  | k + 1 => f (BitVec.ofNat w (k + 1))

/-- The register after `n` steps: it holds `x[n .. n+w]`. -/
def shiftAdvance {w : Nat} (fb : BitVec (w + 1) → Bool) : Nat → BitVec (w + 1) → BitVec (w + 1)
  | 0, x => x
  | n + 1, x => evaluated (shiftNext fb x) (shiftAdvance fb n)

/-- The first `n` bits the register puts out: `x[0 .. n-1]`. -/
def shiftBits {w : Nat} (fb : BitVec (w + 1) → Bool) : Nat → BitVec (w + 1) → List Bool
  | 0, _ => []
  | n + 1, x => x.getLsbD 0 :: evaluated (shiftNext fb x) (shiftBits fb n)

/-- `x1[i+31] = x1[i+3] ^ x1[i]` (R123). -/
def goldFb1 (x : BitVec 31) : Bool := x.getLsbD 3 ^^ x.getLsbD 0

/-- `x2[i+31] = x2[i+3] ^ x2[i+2] ^ x2[i+1] ^ x2[i]` (R123). -/
def goldFb2 (x : BitVec 31) : Bool := x.getLsbD 3 ^^ x.getLsbD 2 ^^ x.getLsbD 1 ^^ x.getLsbD 0

/-- The function `PRSG(n, c_init)` (R124): the bits `x1[i+1600] ^ x2[i+1600]`, from the seeds of R122. -/
def prsg (n : Nat) (cinit : BitVec 31) : List Bool :=
  List.zipWith xor (shiftBits goldFb1 n (shiftAdvance goldFb1 Config.nC 1#31))
    (shiftBits goldFb2 n (shiftAdvance goldFb2 Config.nC cinit))

/-- `x[i+7] = x[i+4] ^ x[i]` (R127, and x0 of R130). -/
def mseqFb4 (x : BitVec 7) : Bool := x.getLsbD 4 ^^ x.getLsbD 0

/-- `x[i+7] = x[i+1] ^ x[i]` (x1 of R130). -/
def mseqFb1 (x : BitVec 7) : Bool := x.getLsbD 1 ^^ x.getLsbD 0

/-- The PSS M-sequence `xP[0..126]` (R127). -/
def pssBits (p : Params) : List Bool := shiftBits mseqFb4 127 p.pssSeed

/-- The SSS M-sequence `xS0[0..126]` (R130). -/
def sssBits0 (p : Params) : List Bool := shiftBits mseqFb4 127 p.sssSeed

/-- The SSS M-sequence `xS1[0..126]` (R130). -/
def sssBits1 (p : Params) : List Bool := shiftBits mseqFb1 127 p.sssSeed

/-- `1 − 2·b`. -/
def sign (b : Bool) : Int := if b then -1 else 1

/-- `1 − 2·x[(n + m) mod 127]` for `n` in [0, 127). -/
def shiftedSigns (xs : List Bool) (m : Nat) : List Int :=
  (List.range 127).map fun n => sign (xs.getD ((n + m) % 127) false)

/-- The function `PSS(N_ID2)` (R128). -/
def pss (p : Params) (nid2 : Nat) : List Int := shiftedSigns (pssBits p) (43 * nid2)

/-- `m0 = 15·⌊N_ID1/112⌋ + 5·N_ID2` (R131). -/
def sssM0 (nid1 nid2 : Nat) : Nat := 15 * (nid1 / 112) + 5 * nid2

/-- `m1 = N_ID1 mod 112` (R131). -/
def sssM1 (nid1 : Nat) : Nat := nid1 % 112

/-- The function `SSS(N_ID1, N_ID2)` (R132). -/
def sss (p : Params) (nid1 nid2 : Nat) : List Int :=
  List.zipWith (· * ·) (shiftedSigns (sssBits0 p) (sssM0 nid1 nid2)) (shiftedSigns (sssBits1 p) (sssM1 nid1))

/-- `QPSK(b0, b1)` (R151). -/
def qpsk (b0 b1 : Bool) : Sample := smp (sign b0 * Config.aQpsk) (sign b1 * Config.aQpsk)

/-- `[ QPSK(b[2i], b[2i+1]) ]` over the pairs of a bit sequence; an odd last bit is not used. -/
def qpskPairs : List Bool → List Sample
  | b0 :: b1 :: bs => qpsk b0 b1 :: qpskPairs bs
  | [_] => []
  | [] => []

/-- The DM-RS index `issb_p(i_ssb, L_max, n_hf)` (R135). -/
def dmrsIndex (issb lMax nhf : Nat) : Nat := if lMax = 4 then issb % 4 + 4 * nhf else issb % 8

/-- The DM-RS initialiser `c_init` (R136). -/
def dmrsCinit (issb ncell lMax nhf : Nat) : Nat :=
  2 ^ 11 * (dmrsIndex issb lMax nhf + 1) * (ncell / 4 + 1) + 2 ^ 6 * (dmrsIndex issb lMax nhf + 1) + ncell % 4

/-- The function `DMRS(i_ssb, N_ID_Cell, L_max, n_hf)` (R136): 289 bits are generated, the last is not used
(90_conflicts.md C1). -/
def dmrs (issb ncell lMax nhf : Nat) : List Sample :=
  qpskPairs (prsg 289 (BitVec.ofNat 31 (dmrsCinit issb ncell lMax nhf)))

/-- NOP (R121): it only completes. -/
def execNop (s : State) : Host.Outcome State Fault Refusal :=
  .next (complete (commandError .nop s) s fun s => s)

/-- PRSG (R125). -/
def execPrsg (s : State) : Host.Outcome State Fault Refusal :=
  .next (complete (commandError .prsg s) s fun s => s.writeBits s.snap.dst0.toNat (prsg s.snap.len.toNat s.snap.cinit))

/-- PSS_GEN (R129). -/
def execPssGen (nid2 : Nat) (s : State) : Host.Outcome State Fault Refusal :=
  .next (complete (commandError (.pssGen nid2) s) s fun s =>
    s.writeSamples s.snap.dst0.toNat ((pss s.params nid2).map bipolar))

/-- SSS_GEN (R133). -/
def execSssGen (nid1 nid2 : Nat) (s : State) : Host.Outcome State Fault Refusal :=
  .next (complete (commandError (.sssGen nid1 nid2) s) s fun s =>
    s.writeSamples s.snap.dst0.toNat ((sss s.params nid1 nid2).map bipolar))

/-- DMRS_GEN (R137). -/
def execDmrsGen (ncell issb nhf : Nat) (s : State) : Host.Outcome State Fault Refusal :=
  .next (complete (commandError (.dmrsGen ncell issb nhf) s) s fun s =>
    s.writeSamples s.snap.dst0.toNat (dmrs issb ncell s.snap.cfg.lMax.toNat nhf))

end Sys2Proof.Machine
end

