-- ==== Sys2Proof/Machine/Correlator.lean ====
section
/-!
DEFINITION. The correlation engine (43_correlator.md): correlation, metric, the PSS sweep, the detector's state
machine and the SSS search, and the meanings of DET_RESET, DET_STEP and DECODE_SSS.
-/

namespace Sys2Proof.Machine

/-- The correlation sum of R212: exact integers, the reference in its bipolar form. -/
def corr (ref : List Int) (y : List Sample) (s : Nat) : Int × Int :=
  ((List.zipWith (fun r x => r * x.i.toInt) ref (y.drop s)).sum,
    (List.zipWith (fun r x => r * x.q.toInt) ref (y.drop s)).sum)

/-- The metric `re^2 + im^2` (R213). -/
def metric (c : Int × Int) : Nat := c.1.natAbs ^ 2 + c.2.natAbs ^ 2

/-- What a sweep returns (R214). -/
structure Sweep where
  /-- Whether there was any shift. -/
  swept : Bool
  /-- The best NID2. -/
  h : Nat
  /-- The best shift. -/
  s : Nat
  /-- The best metric. -/
  m : Nat
  deriving DecidableEq, Repr

/-- One candidate of the sweep: it wins if it is the first or strictly better (R214). -/
def Sweep.consider (best : Sweep) (h s m : Nat) : Sweep :=
  if !best.swept || best.m < m then ⟨true, h, s, m⟩ else best

/-- The sweep over the shifts `s` in [0, N_SC − 127] for one hypothesis (R214): none if `N_SC < 127`. -/
def sweepShifts (y : List Sample) (nSc h : Nat) (ref : List Int) (best : Sweep) : Sweep :=
  (List.range (nSc - 126)).foldl (fun b s => b.consider h s (metric (corr ref y s))) best

/-- `SWEEP(y, N_SC)` (R214): NID2 outer, shift inner, both ascending; the first maximum is kept. -/
def sweep (p : Params) (y : List Sample) (nSc : Nat) : Sweep :=
  (List.range 3).foldl (fun b h => sweepShifts y nSc h (pss p h) b) ⟨false, 0, 0, 0⟩

/-- Latching the sweep result (R215). -/
def latchSweep (s : State) (r : Sweep) : State :=
  { s with
    corr := BitVec.ofNat 64 r.m
    corrPos := ⟨BitVec.ofNat 2 r.h, BitVec.ofNat 12 r.s, r.swept⟩ }

/-- The sweep reaches the threshold: `swept` and `best_m ≥ S.THRESH` (R216). -/
def Sweep.hits (r : Sweep) (thresh : BitVec 64) : Bool := r.swept && thresh.toNat ≤ r.m

/-- The SSB window of the peak fits: `k = best_s − 56 ≥ 0` and `k + 240 ≤ N_SC` (R216). -/
def Sweep.fits (r : Sweep) (nSc : Nat) : Bool := 56 ≤ r.s && r.s - 56 + 240 ≤ nSc

/-- The running counter after a trigger (R217): mid-collection it is first decremented modulo `L`. -/
def nextIssb (srem : Srem) (issb lMax : Nat) : Nat :=
  let i : Int :=
    match srem with
    | .searching => issb
    | .collecting _ => ((issb : Int) - 1) % lMax
  ((i + 1) % lMax).toNat

/-- The trigger action (R217). -/
def Detector.trigger (d : Detector) (r : Sweep) (lMax : Nat) : Detector :=
  { d with
    issb := BitVec.ofNat 6 (nextIssb d.srem d.issb.toNat lMax)
    nid2 := BitVec.ofNat 2 r.h
    kssb := BitVec.ofNat 12 (r.s - 56)
    srem := .collecting 3 }

/-- `BUF` with column `c` replaced. -/
def setColumn (buf : List Sample) (c : Nat) (col : List Sample) : List Sample :=
  buf.take (240 * c) ++ col ++ buf.drop (240 * c + 240)

/-- `SREM − 1` (R218). -/
def Srem.pred (k : Fin 4) : Srem :=
  match k with
  | 0 => .searching
  | 1 => .collecting 0
  | 2 => .collecting 1
  | 3 => .collecting 2

/-- Collection (R218): if SREM ≥ 0, store the window of the symbol as column `3 − SREM` and decrement SREM. -/
def Detector.collect (d : Detector) (y : List Sample) : Detector :=
  match d.srem with
  | .searching => d
  | .collecting k =>
    { d with
      buf := setColumn d.buf (3 - k.val) ((y.drop d.kssb.toNat).take 240)
      srem := Srem.pred k }

/-- Emission (R219): the buffer in SSB-grid layout at `DST0`, `DET_RES`, DET_VALID and DET_OVF. -/
def emit (s : State) : State :=
  State.setDetValid
    { s.writeGrid s.snap.dst0.toNat s.det.buf with detRes := ⟨s.det.nid2, s.det.issb, s.det.kssb⟩ }

/-- Collection and, if it leaves SREM = −1, emission (R218, R219). -/
def collectAndEmit (s : State) (y : List Sample) : State :=
  let t := { s with det := s.det.collect y }
  if s.det.srem ≠ .searching ∧ t.det.srem = .searching then emit t else t

/-- The trigger decision and the trigger action (R216, R217). -/
def triggerStep (s : State) (r : Sweep) : State :=
  if r.hits s.snap.thresh then
    if r.fits s.snap.nSc then { s with det := s.det.trigger r s.snap.cfg.lMax.toNat } else s.setPeakOob
  else s

/-- One detector step on the symbol `y` (R220, after the checks). -/
def detStep (s : State) (y : List Sample) : State :=
  let r := sweep s.params y s.snap.nSc
  collectAndEmit (triggerStep (latchSweep s r) r) y

/-- `SSS_SEARCH(y, N_ID2)` (R222): the first maximum in ascending `nid1` order, with its metric. -/
def sssSearch (p : Params) (y : List Sample) (nid2 : Nat) : Nat × Int :=
  (List.range 336).foldl
    (fun best a =>
      let m : Int := metric (corr (sss p a nid2) y 0)
      if best.2 < m then (a, m) else best)
    (0, -1)

/-- DET_RESET (R211). -/
def execDetReset (issb : Nat) (s : State) : Host.Outcome State Fault Refusal :=
  .next (complete (commandError (.detReset issb) s) s fun s =>
    { s with det := { s.det with srem := .searching, nid2 := 0#2, kssb := 0#12, issb := BitVec.ofNat 6 issb } })

/-- DET_STEP (R220). -/
def execDetStep (s : State) : Host.Outcome State Fault Refusal :=
  .next (complete (commandError .detStep s) s fun s => detStep s (s.readSamples s.snap.src0.toNat s.snap.nSc))

/-- DECODE_SSS (R223). -/
def execDecodeSss (nid2 : Nat) (s : State) : Host.Outcome State Fault Refusal :=
  .next (complete (commandError (.decodeSss nid2) s) s fun s =>
    let best := sssSearch s.params (s.readSamples s.snap.src0.toNat 127) nid2
    { s with sssRes := BitVec.ofNat 9 best.1, sssCorr := BitVec.ofInt 64 best.2 })

end Sys2Proof.Machine
end

