-- ==== Sys2Proof/Machine/Mapper.lean ====
section
/-!
DEFINITION. The resource-element mapper and unmapper (42_mapper.md): the index tables of R171 and R172, and the
meanings of MAP_PSS, MAP_SSS, MAP_PBCH, UNMAP_SSS, UNMAP_PBCH, SSB_GEN and MAP_SSB.
-/

namespace Sys2Proof.Machine

/-- The positions `(k, l)` of a PSS (`l = 0`) or an SSS (`l = 2`): subcarriers [56, 183) (R171). -/
def syncIdx (l : Nat) : List (Nat × Nat) := (List.range 127).map fun n => (56 + n, l)

/-- The scan positions of one symbol, in increasing subcarrier order: all, but for the gap [48, 192) on symbol 2
(R172). -/
def scanSymbol (l : Nat) : List (Nat × Nat) :=
  ((List.range 240).filter fun k => !(l == 2 && 48 ≤ k && k < 192)).map fun k => (k, l)

/-- `SCAN` (R172): symbols 1, 2, 3 in turn. -/
def scan : List (Nat × Nat) := scanSymbol 1 ++ scanSymbol 2 ++ scanSymbol 3

/-- `DMRS_IDX(nu)` (R172). -/
def dmrsIdx (nu : Nat) : List (Nat × Nat) := scan.filter fun p => p.1 % 4 == nu

/-- `PBCH_IDX(nu)` (R172). -/
def pbchIdx (nu : Nat) : List (Nat × Nat) := scan.filter fun p => p.1 % 4 != nu

/-- The grid MAP_PSS (`l = 0`) or MAP_SSS (`l = 2`) writes (R175, R176). -/
def syncGrid (l : Nat) (x : List Sample) : Grid := place zeroGrid (syncIdx l) x

/-- The grid MAP_PBCH writes (R177). -/
def pbchGrid (nu : Nat) (p d : List Sample) : Grid := place (place zeroGrid (pbchIdx nu) p) (dmrsIdx nu) d

/-- `N_ID_Cell = 3·N_ID1 + N_ID2` (R187). -/
def cellId (nid1 nid2 : Nat) : Nat := 3 * nid1 + nid2

/-- The grid SSB_GEN writes (R187): PSS, SSS, PBCH and DM-RS placed in turn. -/
def ssbGrid (par : Params) (nid1 nid2 lMax issb nhf : Nat) (p : List Sample) : Grid :=
  let ncell := cellId nid1 nid2
  let g := place zeroGrid (syncIdx 0) ((pss par nid2).map bipolar)
  let g := place g (syncIdx 2) ((sss par nid1 nid2).map bipolar)
  let g := place g (pbchIdx (ncell % 4)) p
  place g (dmrsIdx (ncell % 4)) (dmrs issb ncell lMax nhf)

/-- Column `l` of an SSB grid: its 240 samples of symbol `l`. -/
def gridColumn (g : Grid) (l : Nat) : List Sample := (g.drop (240 * l)).take 240

/-- MAP_SSB's writes (R191): symbol `l` of the SSB grid goes to 240 consecutive words of symbol `l_off + l` of the
resource grid at `DST0`. -/
def writeSsb (s : State) (koff loff : Nat) (g : Grid) : State :=
  (List.range 4).foldl (fun t l => t.writeSamples (s.snap.resourceAddr koff (loff + l)) (gridColumn g l)) s

/-- MAP_PSS (R175). -/
def execMapPss (s : State) : Host.Outcome State Fault Refusal :=
  .next (complete (commandError .mapPss s) s fun s =>
    s.writeGrid s.snap.dst0.toNat (syncGrid 0 (s.readSamples s.snap.src0.toNat 127)))

/-- MAP_SSS (R176). -/
def execMapSss (s : State) : Host.Outcome State Fault Refusal :=
  .next (complete (commandError .mapSss s) s fun s =>
    s.writeGrid s.snap.dst0.toNat (syncGrid 2 (s.readSamples s.snap.src0.toNat 127)))

/-- MAP_PBCH (R177). -/
def execMapPbch (nu : Nat) (s : State) : Host.Outcome State Fault Refusal :=
  .next (complete (commandError (.mapPbch nu) s) s fun s =>
    s.writeGrid s.snap.dst0.toNat
      (pbchGrid nu (s.readSamples s.snap.src0.toNat 432) (s.readSamples s.snap.src1.toNat 144)))

/-- UNMAP_SSS (R180). -/
def execUnmapSss (s : State) : Host.Outcome State Fault Refusal :=
  .next (complete (commandError .unmapSss s) s fun s =>
    s.writeSamples s.snap.dst0.toNat (gather (s.readGrid s.snap.src0.toNat) (syncIdx 2)))

/-- UNMAP_PBCH (R183): the regions are disjoint (R68), so both outputs come from the grid as it was. -/
def execUnmapPbch (nu : Nat) (s : State) : Host.Outcome State Fault Refusal :=
  .next (complete (commandError (.unmapPbch nu) s) s fun s =>
    let g := s.readGrid s.snap.src0.toNat
    (s.writeSamples s.snap.dst0.toNat (gather g (pbchIdx nu))).writeSamples s.snap.dst1.toNat (gather g (dmrsIdx nu)))

/-- SSB_GEN (R187). -/
def execSsbGen (nid1 nid2 issb nhf : Nat) (s : State) : Host.Outcome State Fault Refusal :=
  .next (complete (commandError (.ssbGen nid1 nid2 issb nhf) s) s fun s =>
    s.writeGrid s.snap.dst0.toNat
      (ssbGrid s.params nid1 nid2 s.snap.cfg.lMax.toNat issb nhf (s.readSamples s.snap.src0.toNat 432)))

/-- MAP_SSB (R191). -/
def execMapSsb (koff loff : Nat) (s : State) : Host.Outcome State Fault Refusal :=
  .next (complete (commandError (.mapSsb koff loff) s) s fun s =>
    writeSsb s koff loff (s.readGrid s.snap.src0.toNat))

end Sys2Proof.Machine
end

