-- ==== Sys2Proof/Machine/Modulator.lean ====
section
/-!
DEFINITION. The QPSK modulator and demodulator (41_modulator.md): the meanings of QPSK_MOD and QPSK_DEMOD.
The mapping QPSK(b0, b1) itself is in Machine/SeqGen.lean, since the DM-RS uses it too (R16).
-/

namespace Sys2Proof.Machine

/-- `DEMOD(s)` (R154): a component's bit is 1 iff it is negative. -/
def demod (x : Sample) : List Bool := [x.i.slt 0#16, x.q.slt 0#16]

/-- QPSK_MOD (R152). -/
def execQpskMod (s : State) : Host.Outcome State Fault Refusal :=
  .next (complete (commandError .qpskMod s) s fun s =>
    s.writeSamples s.snap.dst0.toNat (qpskPairs (s.readBits s.snap.src0.toNat s.snap.len.toNat)))

/-- QPSK_DEMOD (R156). -/
def execQpskDemod (s : State) : Host.Outcome State Fault Refusal :=
  .next (complete (commandError .qpskDemod s) s fun s =>
    s.writeBits s.snap.dst0.toNat ((s.readSamples s.snap.src0.toNat s.snap.len.toNat).flatMap demod))

end Sys2Proof.Machine
end

