-- ==== Sys2Proof/Machine/Dispatch.lean ====
section
/-!
DEFINITION. The meaning of every command: what its completion step does to the state (10_state.md R43).
-/

namespace Sys2Proof.Machine

/-- The completion step of the decoded command `i` against the snapshot, DMEM and the detector state. -/
def exec (i : Instr) (s : State) : Host.Outcome State Fault Refusal :=
  match i with
  | .nop => Sys2Proof.Machine.execNop s
  | .prsg => Sys2Proof.Machine.execPrsg s
  | .pssGen nid2 => Sys2Proof.Machine.execPssGen nid2 s
  | .sssGen nid1 nid2 => Sys2Proof.Machine.execSssGen nid1 nid2 s
  | .dmrsGen ncell issb nhf => Sys2Proof.Machine.execDmrsGen ncell issb nhf s
  | .qpskMod => Sys2Proof.Machine.execQpskMod s
  | .qpskDemod => Sys2Proof.Machine.execQpskDemod s
  | .mapPss => Sys2Proof.Machine.execMapPss s
  | .mapSss => Sys2Proof.Machine.execMapSss s
  | .mapPbch nu => Sys2Proof.Machine.execMapPbch nu s
  | .unmapSss => Sys2Proof.Machine.execUnmapSss s
  | .unmapPbch nu => Sys2Proof.Machine.execUnmapPbch nu s
  | .ssbGen nid1 nid2 issb nhf => Sys2Proof.Machine.execSsbGen nid1 nid2 issb nhf s
  | .mapSsb koff loff => Sys2Proof.Machine.execMapSsb koff loff s
  | .detReset issb => Sys2Proof.Machine.execDetReset issb s
  | .detStep => Sys2Proof.Machine.execDetStep s
  | .decodeSss nid2 => Sys2Proof.Machine.execDecodeSss nid2 s

end Sys2Proof.Machine
end

