-- ==== Sys2Proof/WellFormed.lean ====
section
/-!
DEFINITION. A well-formed command: every field's value fits the width its format gives it (30_encoding.md
R90, R91, R99). A well-formed command may still hold a value outside the source's ranges (R95): it
decodes, and its completion fails with INVALID_PARAM.
-/

namespace Sys2Proof

/-- Every immediate field fits its width (R90, R99: the assembler rejects a value that does not fit). -/
def WellFormed : Instr → Bool
  | .nop => true
  | .prsg => true
  | .pssGen nid2 => nid2 < 2 ^ 2
  | .sssGen nid1 nid2 => nid1 < 2 ^ 9 && nid2 < 2 ^ 2
  | .dmrsGen ncell issb nhf => ncell < 2 ^ 10 && issb < 2 ^ 6 && nhf < 2 ^ 1
  | .qpskMod => true
  | .qpskDemod => true
  | .mapPss => true
  | .mapSss => true
  | .mapPbch nu => nu < 2 ^ 2
  | .unmapSss => true
  | .unmapPbch nu => nu < 2 ^ 2
  | .ssbGen nid1 nid2 issb nhf => nid1 < 2 ^ 9 && nid2 < 2 ^ 2 && issb < 2 ^ 6 && nhf < 2 ^ 1
  | .mapSsb koff loff => koff < 2 ^ 12 && loff < 2 ^ 12
  | .detReset issb => issb < 2 ^ 6
  | .detStep => true
  | .decodeSss nid2 => nid2 < 2 ^ 2

end Sys2Proof
end

