-- ==== Sys2Proof/Decode.lean ====
section
/-!
DEFINITION. Decoding a command word (30_encoding.md R90 to R97) and encoding a well-formed command (R99).
-/

namespace Sys2Proof

/-- `w[hi:lo]` read as an unsigned integer (00_scope.md R10, R91). -/
def bitsOf (w : Word) (hi lo : Nat) : Nat := w.toNat / 2 ^ lo % 2 ^ (hi + 1 - lo)

/-- A command whose format marks `[31:lo]` must-be-zero (R90, R94). -/
def needZero (w : Word) (lo : Nat) (i : Instr) : Decoded :=
  if bitsOf w 31 lo = 0 then .instr i else .illegal .mustBeZero

/-- The decode function of R96, total on 32-bit words: the opcode first, then the must-be-zero bits of its
format, then the fields. -/
def decode (w : Word) : Decoded :=
  match bitsOf w 7 0 with
  | 0x00 => needZero w 8 .nop
  | 0x01 => needZero w 8 .prsg
  | 0x02 => needZero w 10 (.pssGen (bitsOf w 9 8))
  | 0x03 => needZero w 19 (.sssGen (bitsOf w 16 8) (bitsOf w 18 17))
  | 0x04 => needZero w 25 (.dmrsGen (bitsOf w 17 8) (bitsOf w 23 18) (bitsOf w 24 24))
  | 0x10 => needZero w 8 .qpskMod
  | 0x11 => needZero w 8 .qpskDemod
  | 0x20 => needZero w 8 .mapPss
  | 0x21 => needZero w 8 .mapSss
  | 0x22 => needZero w 10 (.mapPbch (bitsOf w 9 8))
  | 0x23 => needZero w 8 .unmapSss
  | 0x24 => needZero w 10 (.unmapPbch (bitsOf w 9 8))
  | 0x25 => needZero w 26 (.ssbGen (bitsOf w 16 8) (bitsOf w 18 17) (bitsOf w 24 19) (bitsOf w 25 25))
  | 0x26 => .instr (.mapSsb (bitsOf w 19 8) (bitsOf w 31 20))
  | 0x30 => needZero w 14 (.detReset (bitsOf w 13 8))
  | 0x31 => needZero w 8 .detStep
  | 0x32 => needZero w 10 (.decodeSss (bitsOf w 9 8))
  | _ => .illegal .reservedOpcode

/-- The opcode of a command (R92). -/
def opcodeOf : Instr → Nat
  | .nop => 0x00
  | .prsg => 0x01
  | .pssGen _ => 0x02
  | .sssGen _ _ => 0x03
  | .dmrsGen _ _ _ => 0x04
  | .qpskMod => 0x10
  | .qpskDemod => 0x11
  | .mapPss => 0x20
  | .mapSss => 0x21
  | .mapPbch _ => 0x22
  | .unmapSss => 0x23
  | .unmapPbch _ => 0x24
  | .ssbGen _ _ _ _ => 0x25
  | .mapSsb _ _ => 0x26
  | .detReset _ => 0x30
  | .detStep => 0x31
  | .decodeSss _ => 0x32

/-- The immediate fields of a command, each at its position in R90. -/
def fieldsOf : Instr → Nat
  | .pssGen nid2 => nid2 * 2 ^ 8
  | .sssGen nid1 nid2 => nid1 * 2 ^ 8 + nid2 * 2 ^ 17
  | .dmrsGen ncell issb nhf => ncell * 2 ^ 8 + issb * 2 ^ 18 + nhf * 2 ^ 24
  | .mapPbch nu => nu * 2 ^ 8
  | .unmapPbch nu => nu * 2 ^ 8
  | .ssbGen nid1 nid2 issb nhf => nid1 * 2 ^ 8 + nid2 * 2 ^ 17 + issb * 2 ^ 19 + nhf * 2 ^ 25
  | .mapSsb koff loff => koff * 2 ^ 8 + loff * 2 ^ 20
  | .detReset issb => issb * 2 ^ 8
  | .decodeSss nid2 => nid2 * 2 ^ 8
  | .nop | .prsg | .qpskMod | .qpskDemod | .mapPss | .mapSss | .unmapSss | .detStep => 0

/-- `encode` of R99: the inverse of decoding on well-formed commands. A field value that does not fit its
width has no encoding. -/
def encode (i : Instr) : Option Word :=
  if WellFormed i then some (BitVec.ofNat 32 (opcodeOf i + fieldsOf i)) else none

/-- The instruction the decoder reads from the command word `w`, numbered as the opcode table numbers its bits:
a command is one 32-bit word (R90), bit 0 the least significant. -/
def decodeTableWord (nbits w : Nat) : Option Instr :=
  match decode (BitVec.ofNat 32 (w % 2 ^ nbits)) with
  | .instr i => some i
  | .illegal _ => none

end Sys2Proof
end

