-- ==== Sys2Proof/Machine/Host.lean ====
section
/-!
DEFINITION. The host's side of the block (10_state.md R20 to R40): the register window, the soft reset
(70_reset_and_hazards.md R291), the host's own path to DMEM, and what a host that races with the pending
command does (20_memory.md R72, 93_implementation_defined.md U3).
-/

namespace Sys2Proof.Machine

/-- `DET_STATE.SREM`: 3-bit two's complement (R30). -/
def Srem.code : Srem → BitVec 3
  | .searching => 0b111#3
  | .collecting k => BitVec.ofNat 3 k.val

/-- `DET_STATE` (R30). -/
def Detector.word (d : Detector) : Word :=
  0#4 ++ d.kssb ++ 0#2 ++ d.issb ++ 0#2 ++ d.nid2 ++ 0#1 ++ d.srem.code

/-- `DET_RES` (R31). -/
def DetRes.word (r : DetRes) : Word := 0#4 ++ r.kssb ++ 0#2 ++ r.issb ++ 0#6 ++ r.nid2

/-- `CORR_POS` (R33). -/
def CorrPos.word (c : CorrPos) : Word := BitVec.ofBool c.swept ++ 0#3 ++ c.shift ++ 0#14 ++ c.nid2

/-- `CFG` as the host reads it (R28). -/
def Cfg.word (c : Cfg) : Word := 0#1 ++ c.lMax ++ 0#5 ++ c.mu ++ 0#7 ++ c.nRb

/-- `CFG` after a host write (R28): each field stores what is written, the other bits nothing. -/
def Cfg.ofWord (w : Word) : Cfg := ⟨w.extractLsb' 0 9, w.extractLsb' 16 3, w.extractLsb' 24 7⟩

/-- The host's read of the register at window offset `off` (R21 to R38). `CMD` and the reserved offsets read 0. -/
def State.readReg (s : State) (off : Nat) : Word :=
  match off with
  | 0x000 => Config.idValue
  | 0x004 => s.ctrl.word
  | 0x008 => s.status.word
  | 0x00C => 0#32
  | 0x010 => s.src0
  | 0x014 => s.src1
  | 0x018 => s.dst0
  | 0x01C => s.dst1
  | 0x020 => s.len
  | 0x024 => 0#1 ++ s.cinit
  | 0x028 => s.cfg.word
  | 0x02C => s.threshLo
  | 0x030 => s.threshHi
  | 0x034 => s.det.word
  | 0x038 => s.detRes.word
  | 0x03C => s.corr.extractLsb' 0 32
  | 0x040 => s.corr.extractLsb' 32 32
  | 0x044 => s.corrPos.word
  | 0x048 => 0#23 ++ s.sssRes
  | 0x04C => s.sssCorr.extractLsb' 0 32
  | 0x050 => s.sssCorr.extractLsb' 32 32
  | 0x054 => s.errInfo
  | 0x058 => s.errCmd
  | _ => 0#32

/-- The regions of the pending command (R300): none while idle, and none for a word that does not decode. -/
def State.pendingRegions (s : State) : List Region :=
  if s.status.busy then
    match decode s.snap.cmdw with
    | .instr i => namedRegions i s.snap
    | .illegal _ => []
  else []

/-- Does the region hold the byte at address `a`? -/
def Region.holds (r : Region) (a : Nat) : Bool := r.start ≤ a && a < r.start + 4 * r.words

/-- The `n`-th to the `(n + k - 1)`-th free byte. -/
def freeBytes (n k : Nat) : List Byte := (List.range k).map fun j => Config.freeByte (n + j)

/-- `words` words of DMEM from `start` upward take any value (U3, U4): those of their bytes that DMEM has become
free values. -/
def havocWords (s : State) (start words : Nat) : State :=
  let k := min (start + 4 * words) s.params.dmemSize - start
  { s.writeBytes start (freeBytes s.freeCtr k) with freeCtr := s.freeCtr + k }

/-- The W regions of the pending command take any value (R291, U4). -/
def havocPending (s : State) : State :=
  (s.pendingRegions.filter fun r => r.op.isDst).foldl (fun t r => havocWords t r.start r.words) s

/-- The soft reset (R291): a pending command is aborted, its W regions take any value, and every register and the
detector state take their reset values. DMEM is otherwise unchanged (R292). -/
def softReset (s : State) : State :=
  let t := havocPending s
  { State.powerOn s.params with
    det := { (State.powerOn s.params).det with buf := unspecifiedBuf t.freeCtr }
    mem := t.mem
    script := s.script
    regRd := s.regRd
    dmemRd := s.dmemRd
    freeCtr := t.freeCtr + 960 }

/-- The host's write of `w` to `CTRL` (R22). -/
def writeCtrl (s : State) (w : Word) : State :=
  if w.getLsbD 31 then softReset s else { s with ctrl := Ctrl.ofWord w }

/-- The host's write of `w` to the register at window offset `off` (R21 to R40). A write to an RO register or a
reserved offset is ignored. -/
def State.writeReg (s : State) (off : Nat) (w : Word) : State :=
  match off with
  | 0x004 => writeCtrl s w
  | 0x008 => acknowledge s w
  | 0x00C => acceptCommand s w
  | 0x010 => { s with src0 := w }
  | 0x014 => { s with src1 := w }
  | 0x018 => { s with dst0 := w }
  | 0x01C => { s with dst1 := w }
  | 0x020 => { s with len := w }
  | 0x024 => { s with cinit := w.extractLsb' 0 31 }
  | 0x028 => { s with cfg := Cfg.ofWord w }
  | 0x02C => { s with threshLo := w }
  | 0x030 => { s with threshHi := w }
  | _ => s

/-- Where a host access of `width` bytes at host address `addr` lands (R21, R39). -/
inductive WindowAccess where
  /-- No byte of it is in the block's register window. -/
  | elsewhere
  /-- An aligned 32-bit access at this window offset. -/
  | register (off : Nat)
  /-- Any other access that touches the window: U1. -/
  | unsupported
  deriving DecidableEq, Repr

/-- Decoding a host access against the register window (R21, R39). -/
def windowAccess (base addr width : Nat) : WindowAccess :=
  if addr + width ≤ base ∨ base + 0x100 ≤ addr ∨ width = 0 then .elsewhere
  else if width = 4 ∧ addr % 4 = 0 ∧ base ≤ addr then .register (addr - base)
  else .unsupported

/-- The host writes a register (R21, R39, R40). An access that does not touch the window is not the block's. -/
def hostRegWrite (s : State) (addr width : Nat) (v : Word) : Host.Outcome State Fault Refusal :=
  match windowAccess s.params.mmioBase addr width with
  | .elsewhere => .next s
  | .register off => .next (s.writeReg off v)
  | .unsupported => .refused .registerAccess

/-- The host reads a register (R21, R39, R40). No read has a side effect. -/
def hostRegRead (s : State) (addr width : Nat) : Host.Outcome State Fault Refusal :=
  match windowAccess s.params.mmioBase addr width with
  | .elsewhere => .next s
  | .register off => .next { s with regRd := s.readReg off }
  | .unsupported => .refused .registerAccess

/-- Does a host access to `n` bytes from `a` upward touch a region of the pending command? (R300) -/
def State.touchesPending (s : State) (a n : Nat) : Bool :=
  s.pendingRegions.any fun r => 0 < n && 0 < r.words && r.start < a + n && a < r.start + 4 * r.words

/-- The host writes bytes to DMEM by its own path (R60, R70). A write to a region of the pending command is a
race (R72, R300). -/
def hostDmemWrite (s : State) (addr : Nat) (bytes : List Byte) : Host.Outcome State Fault Refusal :=
  if addr + bytes.length ≤ s.params.dmemSize then
    .next { s.writeBytes addr bytes with raced := s.raced || s.touchesPending addr bytes.length }
  else .fault .hostOutsideDmem

/-- One byte of a host read: in a W region of the pending command it is any value (R72, R300, U3). -/
def hostByte (s : State) (addr j : Nat) : Byte :=
  if s.pendingRegions.any (fun r => r.op.isDst && r.holds (addr + j)) then Config.freeByte (s.freeCtr + j)
  else s.byteAt (addr + j)

/-- The host reads bytes of DMEM by its own path (R60, R70, R72). -/
def hostDmemRead (s : State) (addr n : Nat) : Host.Outcome State Fault Refusal :=
  if addr + n ≤ s.params.dmemSize then
    .next { s with dmemRd := (List.range n).map (hostByte s addr), freeCtr := s.freeCtr + n }
  else .fault .hostOutsideDmem

/-- The output words of a command, as (start, words): its W regions, but for MAP_SSB, whose hull holds words it does not
write (R67, R191). -/
def outputSpans (i : Instr) (S : Snapshot) : List (Nat × Nat) :=
  match i with
  | .mapSsb koff loff => (List.range 4).map fun l => (S.resourceAddr koff (loff + l), 240)
  | .nop | .prsg | .pssGen _ | .sssGen _ _ | .dmrsGen _ _ _ | .qpskMod | .qpskDemod | .mapPss | .mapSss
  | .mapPbch _ | .unmapSss | .unmapPbch _ | .ssbGen _ _ _ _ | .detReset _ | .detStep | .decodeSss _ =>
    ((namedRegions i S).filter fun r => r.op.isDst).map fun r => (r.start, r.words)

/-- The result registers of a command take any value (R72, U3): DET_RES, CORR and CORR_POS of a DET_STEP, whether or not
it emits, SSS_RES and SSS_CORR of a DECODE_SSS. The bits that read 0 still do. -/
def havocResults (i : Instr) (t : State) : State :=
  match i with
  | .detStep =>
    let d := fun j => Config.freeDword (t.freeCtr + j)
    { t with
      corr := d 0
      corrPos := ⟨(d 1).extractLsb' 0 2, (d 1).extractLsb' 2 12, (d 1).getLsbD 14⟩
      detRes := ⟨(d 2).extractLsb' 0 2, (d 2).extractLsb' 2 6, (d 2).extractLsb' 8 12⟩
      freeCtr := t.freeCtr + 3 }
  | .decodeSss _ =>
    { t with
      sssRes := (Config.freeDword t.freeCtr).extractLsb' 0 9
      sssCorr := Config.freeDword (t.freeCtr + 1)
      freeCtr := t.freeCtr + 2 }
  | .nop | .prsg | .pssGen _ | .sssGen _ _ | .dmrsGen _ _ _ | .qpskMod | .qpskDemod | .mapPss | .mapSss
  | .mapPbch _ | .unmapSss | .unmapPbch _ | .ssbGen _ _ _ _ | .mapSsb _ _ | .detReset _ => t

/-- What a race leaves of a completion from `s` to `t` (R72, U3): every output word and result register of a command
that succeeded is any value; other state is as the command left it. -/
def settleRace (i : Instr) (s t : State) : State :=
  if s.raced then
    match commandError i s with
    | some _ => t
    | none => (outputSpans i s.snap).foldl (fun u x => havocWords u x.1 x.2) (havocResults i t)
  else t

/-- The command passes its checks and one of its regions reaches a device window of DMEM (R75, U2). -/
def reachesDevice (i : Instr) (s : State) : Bool :=
  commandError i s = none &&
    (namedRegions i s.snap).any fun r => s.params.deviceWindows.any fun d =>
      decide (0 < r.words ∧ r.start < d.1 + d.2 ∧ d.1 < r.start + 4 * r.words)

/-- The error of a command word that does not decode (R93, R94, R252). -/
def illegalError : DecodeReject → CmdError
  | .reservedOpcode => ⟨.illegalCmd, 0⟩
  | .mustBeZero => ⟨.illegalCmd, 1⟩

end Sys2Proof.Machine
end

