-- ==== Sys2Proof/Machine/Step.lean ====
section
/-!
DEFINITION. One step of the machine (10_state.md R20, R43): the next move of the schedule, a host access or the
engine's completion step.
-/

namespace Sys2Proof.Machine

/-- The outcome of a completion, with a race settled (U3). -/
def settleOutcome (i : Instr) (s : State) (o : Host.Outcome State Fault Refusal) :
    Host.Outcome State Fault Refusal :=
  match o with
  | .next t => .next (settleRace i s t)
  | .fault r => .fault r
  | .refused r => .refused r

/-- The completion step (R43): decode the pending command word, run its meaning. -/
def completion (s : State) : Host.Outcome State Fault Refusal :=
  match decode s.snap.cmdw with
  | .illegal r => .next (failCommand s (illegalError r))
  | .instr i => if reachesDevice i s then .refused .deviceRegion else settleOutcome i s (exec i s)

/-- The engine's turn (R20, R43): the completion step while a command is pending, nothing while idle. -/
def engineStep (s : State) : Host.Outcome State Fault Refusal :=
  if s.status.busy then completion s else .next s

/-- One move of the schedule. -/
def applyMove (s : State) (m : Move) : Host.Outcome State Fault Refusal :=
  match m with
  | .regWrite addr width v => hostRegWrite s addr width v
  | .regRead addr width => hostRegRead s addr width
  | .dmemWrite addr bytes => hostDmemWrite s addr bytes
  | .dmemRead addr n => hostDmemRead s addr n
  | .engine => engineStep s

/-- One step: the oldest move of the schedule, or the engine's turn when none is left (R43, R310). -/
def step (s : State) : Host.Outcome State Fault Refusal :=
  match s.script with
  | [] => engineStep s
  | m :: rest => applyMove { s with script := rest } m

/-- `s` with the command word `w` accepted and the engine to move: what the host's write of `w` to `CMD` leaves when
BUSY and ERR are 0 (R42), with no other move to come before the completion step. -/
def State.withFetchWord (s : State) (nbits w : Nat) : State :=
  { s.pend (BitVec.ofNat 32 (w % 2 ^ nbits)) with script := [] }

end Sys2Proof.Machine
end

