-- ==== Sys2Proof/Safety.lean ====
section
/-!
DEFINITION. The terms the statements use: the invariant of the machine, when operands are readable, what a successful
or failed completion leaves unchanged, the source's recurrences as properties of a sequence, and the closed forms of the
index tables.
-/

namespace Sys2Proof.Machine

/-- What holds at reset and every step keeps: legal parameters, DMEM in its canonical form and inside the address space
(R60), ERR_CODE 0 exactly while ERR is 0 and never a reserved code (R23, R251), no pending command beside a
DONE or an unacknowledged ERR (R42, R259), and a detector state in the range it has between commands (R41,
R218; its window fits the largest symbol, R216). -/
structure State.Inv (s : State) : Prop where
  /-- R7. -/
  params : s.params.wf
  /-- The canonical form of the memory. -/
  memWf : Memory.wf s.mem
  /-- R60: nothing is listed outside `[0, DMEM_SIZE)`. -/
  memInside : ∀ c ∈ s.mem, c.1 < s.params.dmemSize
  /-- R42: acceptance clears DONE. -/
  busyNotDone : s.status.busy = true → s.status.done = false
  /-- R42, R259: no command is accepted while ERR = 1. -/
  busyNotErr : s.status.busy = true → s.status.err = false
  /-- R23, R256: ERR_CODE is 0 exactly while ERR is 0. -/
  errCodeZero : s.status.err = false ↔ s.status.errCode = 0#4
  /-- R251: the codes 8 to 15 are never produced. -/
  errCodeLegal : s.status.errCode.toNat ≤ 7
  /-- R41. -/
  nid2Legal : s.det.nid2.toNat ≤ 2
  /-- R218: SREM = 3 exists only inside a triggering step. -/
  sremLegal : s.det.srem ≠ .collecting 3
  /-- R216: the candidate's window fits the largest legal symbol. -/
  windowLegal : s.det.kssb.toNat + 240 ≤ 12 * Config.nRbMax
  /-- R41: `BUF` is 240 × 4 samples. -/
  bufLength : s.det.buf.length = 960

/-- `n` words at the address an operand register holds are aligned and in range (R62, R63). -/
def Accessible (s : State) (a : Word) (n : Nat) : Prop := a.toNat % 4 = 0 ∧ a.toNat + 4 * n ≤ s.params.dmemSize

/-- `n` words at `a` and `m` words at `b` do not overlap (R68). -/
def Apart (a n b m : Nat) : Prop := n = 0 ∨ m = 0 ∨ a + 4 * n ≤ b ∨ b + 4 * m ≤ a

/-- Two regions overlap (R68). -/
def Overlapping (a b : Region) : Prop :=
  0 < a.words ∧ 0 < b.words ∧ a.start < b.start + 4 * b.words ∧ b.start < a.start + 4 * a.words

/-- From `s` to `t` nothing changed but DMEM, and BUSY ← 0, DONE ← 1 (R43). -/
def SucceedsWriting (s t : State) : Prop :=
  t = { s with status := { s.status with busy := false, done := true }, mem := t.mem }

/-- From `s` to `t` a command failed with this code and detail, and nothing else changed (R256). -/
def FailsWith (s t : State) (code : ErrCode) (info : Nat) : Prop :=
  t = { s with
    status := { s.status with busy := false, err := true, errCode := code.code }
    errInfo := BitVec.ofNat 32 info
    errCmd := s.snap.cmdw }

/-- Every byte of DMEM outside the `n` words at `a` reads as before. -/
def KeepsOutside (s t : State) (a n : Nat) : Prop := ∀ x, x < a ∨ a + 4 * n ≤ x → t.byteAt x = s.byteAt x

/-- `x` is the first Gold LFSR's sequence (R122, R123). -/
def IsGoldX1 (x : Nat → Bool) : Prop :=
  x 0 = true ∧ (∀ i, 1 ≤ i → i < 31 → x i = false) ∧ ∀ i, x (i + 31) = (x (i + 3) ^^ x i)

/-- `x` is the second Gold LFSR's sequence for `c_init` (R122, R123). -/
def IsGoldX2 (cinit : Nat) (x : Nat → Bool) : Prop :=
  (∀ i, i < 31 → x i = cinit.testBit i) ∧ ∀ i, x (i + 31) = (x (i + 3) ^^ x (i + 2) ^^ x (i + 1) ^^ x i)

/-- `x` starts with the seed and follows `x[i+7] = x[i+4] ^ x[i]` for `i` in [0, 120) (R127, R130). -/
def IsMseq4 (seed : BitVec 7) (x : Nat → Bool) : Prop :=
  (∀ i, i < 7 → x i = seed.getLsbD i) ∧ ∀ i, i < 120 → x (i + 7) = (x (i + 4) ^^ x i)

/-- `x` starts with the seed and follows `x[i+7] = x[i+1] ^ x[i]` for `i` in [0, 120) (R130). -/
def IsMseq1 (seed : BitVec 7) (x : Nat → Bool) : Prop :=
  (∀ i, i < 7 → x i = seed.getLsbD i) ∧ ∀ i, i < 120 → x (i + 7) = (x (i + 1) ^^ x i)

/-- The word of the QPSK symbol of two bits (the table of R151). -/
def qpskWord (b0 b1 : Bool) : Word :=
  match b0, b1 with
  | false, false => 0x2D412D41#32
  | false, true => 0xD2BF2D41#32
  | true, false => 0x2D41D2BF#32
  | true, true => 0xD2BFD2BF#32

/-- Bit `i` of the bit vector at `a` (R65). -/
def State.vectorBit (s : State) (a i : Nat) : Bool := (s.memRead (a + 4 * (i / 32))).getLsbD (i % 32)

/-- The closed form of `DMRS_IDX(nu)[j]` (R173). -/
def dmrsPos (nu j : Nat) : Nat × Nat :=
  if j < 60 then (4 * j + nu, 1)
  else if j < 72 then (4 * (j - 60) + nu, 2)
  else if j < 84 then (192 + 4 * (j - 72) + nu, 2)
  else (4 * (j - 84) + nu, 3)

/-- `off(r)` (R173). -/
def pbchOff (nu r : Nat) : Nat := if r < nu then r else r + 1

/-- The closed form of `PBCH_IDX(nu)[i]` (R173). -/
def pbchPos (nu i : Nat) : Nat × Nat :=
  if i < 180 then (4 * (i / 3) + pbchOff nu (i % 3), 1)
  else if i < 216 then (4 * ((i - 180) / 3) + pbchOff nu ((i - 180) % 3), 2)
  else if i < 252 then (192 + 4 * ((i - 216) / 3) + pbchOff nu ((i - 216) % 3), 2)
  else (4 * ((i - 252) / 3) + pbchOff nu ((i - 252) % 3), 3)

/-- The address of `G[k, l]` of an SSB grid stored at `a`, for `p = (k, l)` (R66). -/
def gridAddr (a : Nat) (p : Nat × Nat) : Nat := a + 4 * (240 * p.2 + p.1)

/-- `(k, l)` is outside the PBCH/DM-RS scan (R172): symbol 0, or the gap of symbol 2. -/
def OutsideScan (p : Nat × Nat) : Prop := p.2 = 0 ∨ (p.2 = 2 ∧ 48 ≤ p.1 ∧ p.1 < 192)

/-- `BUF[k, c]` (R41). -/
def Detector.bufAt (d : Detector) (k c : Nat) : Sample := d.buf.getD (240 * c + k) Sample.zero

/-- The operands and the configuration of a DET_STEP are legal (R220, R255). -/
structure DetReady (s : State) : Prop where
  /-- R28. -/
  nRb : 1 ≤ s.snap.cfg.nRb.toNat ∧ s.snap.cfg.nRb.toNat ≤ 275
  /-- R28. -/
  lMax : 1 ≤ s.snap.cfg.lMax.toNat ∧ s.snap.cfg.lMax.toNat ≤ 64
  /-- R220: a collection in progress fits the symbol. -/
  window : s.det.srem ≠ .searching → s.det.kssb.toNat + 240 ≤ 12 * s.snap.cfg.nRb.toNat
  /-- R67. -/
  src0 : Accessible s s.snap.src0 (12 * s.snap.cfg.nRb.toNat)
  /-- R67. -/
  dst0 : Accessible s s.snap.dst0 960
  /-- R68. -/
  apart : Apart s.snap.src0.toNat (12 * s.snap.cfg.nRb.toNat) s.snap.dst0.toNat 960

/-- The symbol a DET_STEP consumes (R220). -/
def State.symbol (s : State) : List Sample := s.readSamples s.snap.src0.toNat (12 * s.snap.cfg.nRb.toNat)

/-- The sweep of that symbol (R214). -/
def State.sweepResult (s : State) : Sweep := sweep s.params s.symbol (12 * s.snap.cfg.nRb.toNat)

/-- The sweep reaches the threshold (R216). -/
def State.Hits (s : State) : Prop :=
  s.sweepResult.swept = true ∧ s.snap.thresh.toNat ≤ s.sweepResult.m

/-- The SSB window of the sweep's peak fits the symbol (R216). -/
def State.Fits (s : State) : Prop :=
  56 ≤ s.sweepResult.s ∧ s.sweepResult.s - 56 + 240 ≤ 12 * s.snap.cfg.nRb.toNat

/-- The step triggers (R216). -/
def State.Triggers (s : State) : Prop := s.Hits ∧ s.Fits

end Sys2Proof.Machine
end

