-- ==== Sys2Proof/Certificates/Slice0/Obligations.lean ====
section
/-!
DEFINITION. The statements about the model, for the provers. Each docstring names what of spec/ it formalises.
-/

open Sys2Proof Sys2Proof.Machine

/-! ### What each command does -/

/-- NOP completes and changes nothing but BUSY and DONE (R121). -/
def Obligations.NopOnlyCompletes : Prop :=
  ∀ s : State, exec .nop s = .next { s with status := { s.status with busy := false, done := true } }

/-- PRSG writes the Gold sequence as a bit vector, its last word padded with zeros, and nothing else (R122 to R125). -/
def Obligations.PrsgWritesGoldSequence : Prop :=
  ∀ s : State, Accessible s s.snap.dst0 ((s.snap.len.toNat + 31) / 32) →
    ∃ t, exec .prsg s = .next t ∧ SucceedsWriting s t ∧
      KeepsOutside s t s.snap.dst0.toNat ((s.snap.len.toNat + 31) / 32) ∧
      ∀ x1 x2, IsGoldX1 x1 → IsGoldX2 s.snap.cinit.toNat x2 →
        ∀ i, i < 32 * ((s.snap.len.toNat + 31) / 32) →
          t.vectorBit s.snap.dst0.toNat i =
            if i < s.snap.len.toNat then (x1 (i + 1600) ^^ x2 (i + 1600)) else false

/-- PSS_GEN writes `PSS(N_ID2)` as ±ONE samples at `DST0`, and nothing else (R127 to R129). -/
def Obligations.PssGenWritesPss : Prop :=
  ∀ (nid2 : Nat) (s : State), nid2 ≤ 2 → Accessible s s.snap.dst0 127 →
    ∃ t, exec (.pssGen nid2) s = .next t ∧ SucceedsWriting s t ∧ KeepsOutside s t s.snap.dst0.toNat 127 ∧
      ∀ x, IsMseq4 s.params.pssSeed x → ∀ n, n < 127 →
        t.memRead (s.snap.dst0.toNat + 4 * n) =
          if x ((n + 43 * nid2) % 127) then 0x0000C000#32 else 0x00004000#32

/-- SSS_GEN writes `SSS(N_ID1, N_ID2)` as ±ONE samples at `DST0`, and nothing else (R130 to R133). -/
def Obligations.SssGenWritesSss : Prop :=
  ∀ (nid1 nid2 : Nat) (s : State), nid1 ≤ 335 → nid2 ≤ 2 → Accessible s s.snap.dst0 127 →
    ∃ t, exec (.sssGen nid1 nid2) s = .next t ∧ SucceedsWriting s t ∧ KeepsOutside s t s.snap.dst0.toNat 127 ∧
      ∀ x0 x1, IsMseq4 s.params.sssSeed x0 → IsMseq1 s.params.sssSeed x1 → ∀ n, n < 127 →
        t.memRead (s.snap.dst0.toNat + 4 * n) =
          if x0 ((n + (15 * (nid1 / 112) + 5 * nid2)) % 127) = x1 ((n + nid1 % 112) % 127) then 0x00004000#32
          else 0x0000C000#32

/-- DMRS_GEN writes the 144 QPSK symbols of the Gold sequence of R136's `c_init` at `DST0`, and nothing else (R135 to
R137). -/
def Obligations.DmrsGenWritesDmrs : Prop :=
  ∀ (ncell issb nhf : Nat) (s : State), ncell ≤ 1007 → 1 ≤ s.snap.cfg.lMax.toNat → s.snap.cfg.lMax.toNat ≤ 64 →
    Accessible s s.snap.dst0 144 →
    ∃ t, exec (.dmrsGen ncell issb nhf) s = .next t ∧ SucceedsWriting s t ∧
      KeepsOutside s t s.snap.dst0.toNat 144 ∧
      ∀ ip, (ip = if s.snap.cfg.lMax.toNat = 4 then issb % 4 + 4 * nhf else issb % 8) →
        ∀ x1 x2, IsGoldX1 x1 →
          IsGoldX2 (2 ^ 11 * (ip + 1) * (ncell / 4 + 1) + 2 ^ 6 * (ip + 1) + ncell % 4) x2 →
          ∀ m, m < 144 →
            t.memRead (s.snap.dst0.toNat + 4 * m) =
              qpskWord (x1 (2 * m + 1600) ^^ x2 (2 * m + 1600)) (x1 (2 * m + 1 + 1600) ^^ x2 (2 * m + 1 + 1600))

/-- QPSK_MOD writes the symbol of each input bit pair at `DST0`, and nothing else (R151, R152). -/
def Obligations.QpskModMapsBitPairs : Prop :=
  ∀ s : State, s.snap.len.toNat % 2 = 0 → Accessible s s.snap.src0 ((s.snap.len.toNat + 31) / 32) →
    Accessible s s.snap.dst0 (s.snap.len.toNat / 2) →
    Apart s.snap.src0.toNat ((s.snap.len.toNat + 31) / 32) s.snap.dst0.toNat (s.snap.len.toNat / 2) →
    ∃ t, exec .qpskMod s = .next t ∧ SucceedsWriting s t ∧
      KeepsOutside s t s.snap.dst0.toNat (s.snap.len.toNat / 2) ∧
      ∀ i, i < s.snap.len.toNat / 2 →
        t.memRead (s.snap.dst0.toNat + 4 * i) =
          qpskWord (s.vectorBit s.snap.src0.toNat (2 * i)) (s.vectorBit s.snap.src0.toNat (2 * i + 1))

/-- QPSK_DEMOD writes the sign bits of each input sample's I and Q, the last word padded with zeros, and nothing else
(R154, R156). -/
def Obligations.QpskDemodTakesSigns : Prop :=
  ∀ s : State, Accessible s s.snap.src0 s.snap.len.toNat →
    Accessible s s.snap.dst0 ((2 * s.snap.len.toNat + 31) / 32) →
    Apart s.snap.src0.toNat s.snap.len.toNat s.snap.dst0.toNat ((2 * s.snap.len.toNat + 31) / 32) →
    ∃ t, exec .qpskDemod s = .next t ∧ SucceedsWriting s t ∧
      KeepsOutside s t s.snap.dst0.toNat ((2 * s.snap.len.toNat + 31) / 32) ∧
      ∀ i, i < 32 * ((2 * s.snap.len.toNat + 31) / 32) →
        t.vectorBit s.snap.dst0.toNat i =
          if i < 2 * s.snap.len.toNat then
            (s.memRead (s.snap.src0.toNat + 4 * (i / 2))).getLsbD (if i % 2 = 0 then 15 else 31)
          else false

/-- MAP_PSS writes an SSB grid that holds its 127 input words at subcarriers [56, 183) of symbol 0 and zeros elsewhere,
and nothing else (R171, R175). -/
def Obligations.MapPssPlacesOnSymbolZero : Prop :=
  ∀ s : State, Accessible s s.snap.src0 127 → Accessible s s.snap.dst0 960 →
    Apart s.snap.src0.toNat 127 s.snap.dst0.toNat 960 →
    ∃ t, exec .mapPss s = .next t ∧ SucceedsWriting s t ∧ KeepsOutside s t s.snap.dst0.toNat 960 ∧
      ∀ k l, k < 240 → l < 4 →
        t.memRead (gridAddr s.snap.dst0.toNat (k, l)) =
          if l = 0 ∧ 56 ≤ k ∧ k < 183 then s.memRead (s.snap.src0.toNat + 4 * (k - 56)) else 0#32

/-- MAP_SSS: as MAP_PSS, on symbol 2 (R171, R176). -/
def Obligations.MapSssPlacesOnSymbolTwo : Prop :=
  ∀ s : State, Accessible s s.snap.src0 127 → Accessible s s.snap.dst0 960 →
    Apart s.snap.src0.toNat 127 s.snap.dst0.toNat 960 →
    ∃ t, exec .mapSss s = .next t ∧ SucceedsWriting s t ∧ KeepsOutside s t s.snap.dst0.toNat 960 ∧
      ∀ k l, k < 240 → l < 4 →
        t.memRead (gridAddr s.snap.dst0.toNat (k, l)) =
          if l = 2 ∧ 56 ≤ k ∧ k < 183 then s.memRead (s.snap.src0.toNat + 4 * (k - 56)) else 0#32

/-- MAP_PBCH writes PBCH sample `i` and DM-RS sample `j` at the closed-form positions of R173, zeros outside the scan,
and nothing else (R172, R173, R177). -/
def Obligations.MapPbchPlacesInScanOrder : Prop :=
  ∀ (nu : Nat) (s : State), nu < 4 → Accessible s s.snap.src0 432 → Accessible s s.snap.src1 144 →
    Accessible s s.snap.dst0 960 → Apart s.snap.src0.toNat 432 s.snap.dst0.toNat 960 →
    Apart s.snap.src1.toNat 144 s.snap.dst0.toNat 960 →
    ∃ t, exec (.mapPbch nu) s = .next t ∧ SucceedsWriting s t ∧ KeepsOutside s t s.snap.dst0.toNat 960 ∧
      (∀ i, i < 432 →
        t.memRead (gridAddr s.snap.dst0.toNat (pbchPos nu i)) = s.memRead (s.snap.src0.toNat + 4 * i)) ∧
      (∀ j, j < 144 →
        t.memRead (gridAddr s.snap.dst0.toNat (dmrsPos nu j)) = s.memRead (s.snap.src1.toNat + 4 * j)) ∧
      ∀ k l, k < 240 → l < 4 → OutsideScan (k, l) → t.memRead (gridAddr s.snap.dst0.toNat (k, l)) = 0#32

/-- UNMAP_SSS copies the 127 words of subcarriers [56, 183) of symbol 2 to `DST0`, and changes nothing else (R180). -/
def Obligations.UnmapSssExtractsSymbolTwo : Prop :=
  ∀ s : State, Accessible s s.snap.src0 960 → Accessible s s.snap.dst0 127 →
    Apart s.snap.src0.toNat 960 s.snap.dst0.toNat 127 →
    ∃ t, exec .unmapSss s = .next t ∧ SucceedsWriting s t ∧ KeepsOutside s t s.snap.dst0.toNat 127 ∧
      ∀ n, n < 127 →
        t.memRead (s.snap.dst0.toNat + 4 * n) = s.memRead (gridAddr s.snap.src0.toNat (56 + n, 2))

/-- UNMAP_PBCH copies the PBCH positions to `DST0` and the DM-RS positions to `DST1`, in scan order, and changes nothing
else (R173, R183). -/
def Obligations.UnmapPbchExtractsInScanOrder : Prop :=
  ∀ (nu : Nat) (s : State), nu < 4 → Accessible s s.snap.src0 960 → Accessible s s.snap.dst0 432 →
    Accessible s s.snap.dst1 144 → Apart s.snap.src0.toNat 960 s.snap.dst0.toNat 432 →
    Apart s.snap.src0.toNat 960 s.snap.dst1.toNat 144 → Apart s.snap.dst0.toNat 432 s.snap.dst1.toNat 144 →
    ∃ t, exec (.unmapPbch nu) s = .next t ∧ SucceedsWriting s t ∧
      (∀ x, (x < s.snap.dst0.toNat ∨ s.snap.dst0.toNat + 4 * 432 ≤ x) →
        (x < s.snap.dst1.toNat ∨ s.snap.dst1.toNat + 4 * 144 ≤ x) → t.byteAt x = s.byteAt x) ∧
      (∀ i, i < 432 →
        t.memRead (s.snap.dst0.toNat + 4 * i) = s.memRead (gridAddr s.snap.src0.toNat (pbchPos nu i))) ∧
      ∀ j, j < 144 →
        t.memRead (s.snap.dst1.toNat + 4 * j) = s.memRead (gridAddr s.snap.src0.toNat (dmrsPos nu j))

/-- SSB_GEN writes the PSS on symbol 0, the SSS on symbol 2, the PBCH input and the DM-RS on the scan for
`nu = N_ID_Cell mod 4`, zeros elsewhere, and nothing else (R174, R187). -/
def Obligations.SsbGenComposesSsb : Prop :=
  ∀ (nid1 nid2 issb nhf : Nat) (s : State), nid1 ≤ 335 → nid2 ≤ 2 → 1 ≤ s.snap.cfg.lMax.toNat →
    s.snap.cfg.lMax.toNat ≤ 64 → Accessible s s.snap.src0 432 → Accessible s s.snap.dst0 960 →
    Apart s.snap.src0.toNat 432 s.snap.dst0.toNat 960 →
    ∃ t, exec (.ssbGen nid1 nid2 issb nhf) s = .next t ∧ SucceedsWriting s t ∧
      KeepsOutside s t s.snap.dst0.toNat 960 ∧
      (∀ n, n < 127 → t.memRead (gridAddr s.snap.dst0.toNat (56 + n, 0)) =
        (bipolar ((pss s.params nid2).getD n 0)).word) ∧
      (∀ n, n < 127 → t.memRead (gridAddr s.snap.dst0.toNat (56 + n, 2)) =
        (bipolar ((sss s.params nid1 nid2).getD n 0)).word) ∧
      (∀ i, i < 432 → t.memRead (gridAddr s.snap.dst0.toNat (pbchPos ((3 * nid1 + nid2) % 4) i)) =
        s.memRead (s.snap.src0.toNat + 4 * i)) ∧
      (∀ j, j < 144 → t.memRead (gridAddr s.snap.dst0.toNat (dmrsPos ((3 * nid1 + nid2) % 4) j)) =
        ((dmrs issb (3 * nid1 + nid2) s.snap.cfg.lMax.toNat nhf).getD j Sample.zero).word) ∧
      ∀ k l, k < 240 → l < 4 →
        ((l = 0 ∧ (k < 56 ∨ 183 ≤ k)) ∨ (l = 2 ∧ ((48 ≤ k ∧ k < 56) ∨ (183 ≤ k ∧ k < 192)))) →
        t.memRead (gridAddr s.snap.dst0.toNat (k, l)) = 0#32

/-- MAP_SSB writes the SSB grid at its offsets in the resource grid, and leaves every other byte, the rest of the hull
included, as it was (R191, R192). -/
def Obligations.MapSsbWritesAtOffsets : Prop :=
  ∀ (koff loff : Nat) (s : State), 1 ≤ s.snap.cfg.nRb.toNat → s.snap.cfg.nRb.toNat ≤ 275 →
    s.snap.cfg.mu.toNat ≤ 4 → koff + 240 ≤ 12 * s.snap.cfg.nRb.toNat →
    loff + 4 ≤ 140 * 2 ^ s.snap.cfg.mu.toNat → Accessible s s.snap.src0 960 → s.snap.dst0.toNat % 4 = 0 →
    s.snap.dst0.toNat + 4 * (12 * s.snap.cfg.nRb.toNat * loff + koff) +
      4 * (3 * (12 * s.snap.cfg.nRb.toNat) + 240) ≤ s.params.dmemSize →
    Apart s.snap.src0.toNat 960 (s.snap.dst0.toNat + 4 * (12 * s.snap.cfg.nRb.toNat * loff + koff))
      (3 * (12 * s.snap.cfg.nRb.toNat) + 240) →
    ∃ t, exec (.mapSsb koff loff) s = .next t ∧ SucceedsWriting s t ∧
      (∀ k l, k < 240 → l < 4 →
        t.memRead (s.snap.dst0.toNat + 4 * (12 * s.snap.cfg.nRb.toNat * (loff + l) + (koff + k))) =
          s.memRead (gridAddr s.snap.src0.toNat (k, l))) ∧
      ∀ x, (∀ l, l < 4 →
          x < s.snap.dst0.toNat + 4 * (12 * s.snap.cfg.nRb.toNat * (loff + l) + koff) ∨
          s.snap.dst0.toNat + 4 * (12 * s.snap.cfg.nRb.toNat * (loff + l) + koff) + 960 ≤ x) →
        t.byteAt x = s.byteAt x

/-- DET_RESET re-creates the detector with the counter at its ISSB field, leaves `BUF` and everything else but BUSY and
DONE (R211). -/
def Obligations.DetResetRecreatesDetector : Prop :=
  ∀ (issb : Nat) (s : State), issb < 64 →
    exec (.detReset issb) s = .next { s with
      status := { s.status with busy := false, done := true }
      det := { srem := .searching, nid2 := 0#2, kssb := 0#12, issb := BitVec.ofNat 6 issb, buf := s.det.buf } }

/-- Every legal DET_STEP completes, latches its sweep, sets PEAK_OOB exactly when a peak that reaches the threshold does
not fit, and changes only DONE, BUSY, PEAK_OOB, the emission's flags, the detector, DET_RES, the CORR registers
and the words at `DST0` (R215, R216, R220). -/
def Obligations.DetStepLatchesSweep : Prop :=
  ∀ s : State, DetReady s → s.det.buf.length = 960 →
    ∃ t, exec .detStep s = .next t ∧
      t = { s with
        status := { s.status with
          busy := false, done := true, peakOob := t.status.peakOob, detValid := t.status.detValid,
          detOvf := t.status.detOvf }
        det := t.det, detRes := t.detRes, corr := t.corr, corrPos := t.corrPos, mem := t.mem } ∧
      t.corr.toNat = s.sweepResult.m ∧ t.corrPos.nid2.toNat = s.sweepResult.h ∧
      t.corrPos.shift.toNat = s.sweepResult.s ∧ t.corrPos.swept = s.sweepResult.swept ∧
      (t.status.peakOob = true ↔ s.status.peakOob = true ∨ (s.Hits ∧ ¬ s.Fits)) ∧
      KeepsOutside s t s.snap.dst0.toNat 960

/-- SEARCHING without a trigger: the detector, DET_RES, DET_VALID, DET_OVF and DMEM stay (R221, row 1; R226). -/
def Obligations.DetStepSearchingWithoutTrigger : Prop :=
  ∀ s : State, DetReady s → s.det.srem = .searching → ¬ s.Triggers →
    ∃ t, exec .detStep s = .next t ∧ t.det = s.det ∧ t.detRes = s.detRes ∧ t.mem = s.mem ∧
      t.status.detValid = s.status.detValid ∧ t.status.detOvf = s.status.detOvf ∧ t.status.done = true

/-- A trigger (R217, R218, R221 rows 2 and 6): the counter advances by one from SEARCHING, and mid-collection is first
decremented; the candidate is the peak; the symbol's window becomes column 0; nothing is emitted. -/
def Obligations.DetStepTriggerStartsCollection : Prop :=
  ∀ s : State, DetReady s → s.det.buf.length = 960 → s.Triggers →
    ∃ t, exec .detStep s = .next t ∧ t.det.srem = .collecting 2 ∧ t.det.nid2.toNat = s.sweepResult.h ∧
      t.det.kssb.toNat = s.sweepResult.s - 56 ∧
      (s.det.srem = .searching → t.det.issb.toNat = (s.det.issb.toNat + 1) % s.snap.cfg.lMax.toNat) ∧
      (s.det.srem ≠ .searching → (t.det.issb.toNat : Int) =
        (((s.det.issb.toNat : Int) - 1) % s.snap.cfg.lMax.toNat + 1) % s.snap.cfg.lMax.toNat) ∧
      (∀ k, k < 240 → t.det.bufAt k 0 =
        Sample.ofWord (s.memRead (s.snap.src0.toNat + 4 * (s.sweepResult.s - 56 + k)))) ∧
      (∀ k c, k < 240 → 1 ≤ c → c < 4 → t.det.bufAt k c = s.det.bufAt k c) ∧
      t.detRes = s.detRes ∧ t.mem = s.mem ∧ t.status.detValid = s.status.detValid ∧
      t.status.detOvf = s.status.detOvf

/-- COLLECTING(2) or COLLECTING(1) without a trigger: the window of the symbol becomes the next column and SREM counts
down; the candidate and the counter stay; nothing is emitted (R218, R221 rows 3 and 4). -/
def Obligations.DetStepCollectsColumn : Prop :=
  ∀ (s : State) (k : Fin 4), DetReady s → s.det.buf.length = 960 → s.det.srem = .collecting k → (k = 1 ∨ k = 2) →
    ¬ s.Triggers →
    ∃ t, exec .detStep s = .next t ∧ t.det.srem = .collecting (k - 1) ∧ t.det.nid2 = s.det.nid2 ∧
      t.det.kssb = s.det.kssb ∧ t.det.issb = s.det.issb ∧
      (∀ j, j < 240 → t.det.bufAt j (3 - k.val) =
        Sample.ofWord (s.memRead (s.snap.src0.toNat + 4 * (s.det.kssb.toNat + j)))) ∧
      (∀ j c, j < 240 → c < 4 → c ≠ 3 - k.val → t.det.bufAt j c = s.det.bufAt j c) ∧
      t.detRes = s.detRes ∧ t.mem = s.mem ∧ t.status.detValid = s.status.detValid ∧
      t.status.detOvf = s.status.detOvf

/-- COLLECTING(0) without a trigger emits: columns 0 to 2 of `BUF` and the symbol's window as column 3 go to `DST0`,
DET_RES records the candidate, DET_VALID is set and DET_OVF if it was set already; the detector returns to SEARCHING,
keeps its candidate and its counter, and DET_STATE shows so (R30, R219, R221 row 5). -/
def Obligations.DetStepEmitsDetection : Prop :=
  ∀ s : State, DetReady s → s.det.buf.length = 960 → s.det.srem = .collecting 0 → ¬ s.Triggers →
    ∃ t, exec .detStep s = .next t ∧ t.det.srem = .searching ∧ t.det.issb = s.det.issb ∧
      t.det.nid2 = s.det.nid2 ∧ t.det.kssb = s.det.kssb ∧
      t.readReg 0x034 = 0#4 ++ s.det.kssb ++ 0#2 ++ s.det.issb ++ 0#2 ++ s.det.nid2 ++ 0#1 ++ 0b111#3 ∧
      t.detRes = ⟨s.det.nid2, s.det.issb, s.det.kssb⟩ ∧ t.status.detValid = true ∧
      (t.status.detOvf = true ↔ s.status.detOvf = true ∨ s.status.detValid = true) ∧
      (∀ k c, k < 240 → c < 3 →
        t.memRead (gridAddr s.snap.dst0.toNat (k, c)) = (s.det.bufAt k c).word) ∧
      (∀ k, k < 240 → t.memRead (gridAddr s.snap.dst0.toNat (k, 3)) =
        s.memRead (s.snap.src0.toNat + 4 * (s.det.kssb.toNat + k))) ∧
      KeepsOutside s t s.snap.dst0.toNat 960

/-- DECODE_SSS finds the first `N_ID1` of greatest metric in ascending order and latches it with its metric; nothing else
changes but BUSY and DONE (R222, R223). -/
def Obligations.DecodeSssFindsFirstMaximum : Prop :=
  ∀ (nid2 : Nat) (s : State), nid2 ≤ 2 → Accessible s s.snap.src0 127 →
    ∃ t a, exec (.decodeSss nid2) s = .next t ∧ a < 336 ∧
      t = { s with
        status := { s.status with busy := false, done := true }
        sssRes := t.sssRes, sssCorr := t.sssCorr } ∧
      t.sssRes.toNat = a ∧
      t.sssCorr.toNat = metric (corr (sss s.params a nid2) (s.readSamples s.snap.src0.toNat 127) 0) ∧
      (∀ b, b < a → metric (corr (sss s.params b nid2) (s.readSamples s.snap.src0.toNat 127) 0) < t.sssCorr.toNat) ∧
      ∀ b, b < 336 → metric (corr (sss s.params b nid2) (s.readSamples s.snap.src0.toNat 127) 0) ≤ t.sssCorr.toNat

/-! ### Errors -/

/-- A failed command, be it a decoded one that fails a check or a pending word that does not decode, makes the writes of
R256 and nothing else. -/
def Obligations.FailedCommandIsPrecise : Prop :=
  (∀ (i : Instr) (s : State) (e : CmdError), commandError i s = some e →
    ∃ t, exec i s = .next t ∧ FailsWith s t e.code e.info) ∧
  ∀ (s : State) (r : DecodeReject), s.script = [] → s.status.busy = true → decode s.snap.cmdw = .illegal r →
    ∃ t, step s = .next t ∧ FailsWith s t .illegalCmd (match r with | .reservedOpcode => 0 | .mustBeZero => 1)

/-- Every command completes: it succeeds with DONE, or fails with ERR and an error code of R251; BUSY falls either way,
and the flag of the other outcome, OVR and CTRL stay (R43, R261). -/
def Obligations.EveryCommandCompletes : Prop :=
  ∀ (i : Instr) (s : State), ∃ t, exec i s = .next t ∧ t.status.busy = false ∧ t.status.ovr = s.status.ovr ∧
    t.ctrl = s.ctrl ∧
    ((commandError i s = none ∧ t.status.done = true ∧ t.status.err = s.status.err ∧
        t.status.errCode = s.status.errCode ∧ t.errInfo = s.errInfo ∧ t.errCmd = s.errCmd) ∨
      (commandError i s ≠ none ∧ t.status.done = s.status.done ∧ t.status.err = true ∧
        1 ≤ t.status.errCode.toNat ∧ t.status.errCode.toNat ≤ 7 ∧ t.errCmd = s.snap.cmdw))

/-- A field value outside the source's ranges, or an illegal `L_MAX`, fails the sequence commands with INVALID_PARAM, in
ascending field order (R95, R129, R133, R137, R187, R223), and an odd bit count fails QPSK_MOD with INVALID_LENGTH
(R152), whatever their operands. -/
def Obligations.InvalidFieldFailsInOrder : Prop :=
  (∀ nid2 s, 2 < nid2 → ∃ t, exec (.pssGen nid2) s = .next t ∧ FailsWith s t .invalidParam 2) ∧
  (∀ nid1 nid2 s, 335 < nid1 → ∃ t, exec (.sssGen nid1 nid2) s = .next t ∧ FailsWith s t .invalidParam 1) ∧
  (∀ nid1 nid2 s, nid1 ≤ 335 → 2 < nid2 →
    ∃ t, exec (.sssGen nid1 nid2) s = .next t ∧ FailsWith s t .invalidParam 2) ∧
  (∀ ncell issb nhf s, 1007 < ncell →
    ∃ t, exec (.dmrsGen ncell issb nhf) s = .next t ∧ FailsWith s t .invalidParam 3) ∧
  (∀ ncell issb nhf s, ncell ≤ 1007 → (s.snap.cfg.lMax.toNat = 0 ∨ 64 < s.snap.cfg.lMax.toNat) →
    ∃ t, exec (.dmrsGen ncell issb nhf) s = .next t ∧ FailsWith s t .invalidParam 6) ∧
  (∀ nid1 nid2 issb nhf s, 335 < nid1 →
    ∃ t, exec (.ssbGen nid1 nid2 issb nhf) s = .next t ∧ FailsWith s t .invalidParam 1) ∧
  (∀ nid1 nid2 issb nhf s, nid1 ≤ 335 → 2 < nid2 →
    ∃ t, exec (.ssbGen nid1 nid2 issb nhf) s = .next t ∧ FailsWith s t .invalidParam 2) ∧
  (∀ nid1 nid2 issb nhf s, nid1 ≤ 335 → nid2 ≤ 2 → (s.snap.cfg.lMax.toNat = 0 ∨ 64 < s.snap.cfg.lMax.toNat) →
    ∃ t, exec (.ssbGen nid1 nid2 issb nhf) s = .next t ∧ FailsWith s t .invalidParam 6) ∧
  (∀ nid2 s, 2 < nid2 → ∃ t, exec (.decodeSss nid2) s = .next t ∧ FailsWith s t .invalidParam 2) ∧
  ∀ s, s.snap.len.toNat % 2 = 1 → ∃ t, exec .qpskMod s = .next t ∧ FailsWith s t .invalidLength 0

/-- MAP_SSB's parameter and bounds errors, in the order of R191. -/
def Obligations.MapSsbChecksGridBounds : Prop :=
  ∀ (koff loff : Nat) (s : State), ∃ t, exec (.mapSsb koff loff) s = .next t ∧
    ((s.snap.cfg.nRb.toNat = 0 ∨ 275 < s.snap.cfg.nRb.toNat) → FailsWith s t .invalidParam 4) ∧
    (1 ≤ s.snap.cfg.nRb.toNat → s.snap.cfg.nRb.toNat ≤ 275 → 4 < s.snap.cfg.mu.toNat →
      FailsWith s t .invalidParam 5) ∧
    (1 ≤ s.snap.cfg.nRb.toNat → s.snap.cfg.nRb.toNat ≤ 275 → s.snap.cfg.mu.toNat ≤ 4 →
      12 * s.snap.cfg.nRb.toNat < koff + 240 → FailsWith s t .outOfBounds 1) ∧
    (1 ≤ s.snap.cfg.nRb.toNat → s.snap.cfg.nRb.toNat ≤ 275 → s.snap.cfg.mu.toNat ≤ 4 →
      koff + 240 ≤ 12 * s.snap.cfg.nRb.toNat → 140 * 2 ^ s.snap.cfg.mu.toNat < loff + 4 →
      FailsWith s t .outOfBounds 2)

/-- DET_STEP's parameter and bounds errors, in the order of R220: a failed step consumes no symbol. -/
def Obligations.DetStepChecksConfiguration : Prop :=
  ∀ s : State, ∃ t, exec .detStep s = .next t ∧
    ((s.snap.cfg.nRb.toNat = 0 ∨ 275 < s.snap.cfg.nRb.toNat) → FailsWith s t .invalidParam 4) ∧
    (1 ≤ s.snap.cfg.nRb.toNat → s.snap.cfg.nRb.toNat ≤ 275 →
      (s.snap.cfg.lMax.toNat = 0 ∨ 64 < s.snap.cfg.lMax.toNat) → FailsWith s t .invalidParam 6) ∧
    (1 ≤ s.snap.cfg.nRb.toNat → s.snap.cfg.nRb.toNat ≤ 275 → 1 ≤ s.snap.cfg.lMax.toNat →
      s.snap.cfg.lMax.toNat ≤ 64 → s.det.srem ≠ .searching →
      12 * s.snap.cfg.nRb.toNat < s.det.kssb.toNat + 240 → FailsWith s t .outOfBounds 3)

/-- The first misaligned operand, in the order SRC0, SRC1, DST0, DST1, fails a command whose earlier checks pass
(R62, R255). -/
def Obligations.FirstMisalignedOperandFails : Prop :=
  ∀ (i : Instr) (s : State) (pre post : List Region) (r : Region),
    (∀ o ∈ fieldChecks i s.snap s.det, o = none) → namedRegions i s.snap = pre ++ r :: post →
    (∀ q ∈ pre, q.base % 4 = 0) → r.base % 4 ≠ 0 →
    ∃ t, exec i s = .next t ∧ FailsWith s t .misaligned r.op.index

/-- With every operand aligned, the first region that leaves DMEM fails the command (R63, R255). -/
def Obligations.FirstRegionOutOfRangeFails : Prop :=
  ∀ (i : Instr) (s : State) (pre post : List Region) (r : Region),
    (∀ o ∈ fieldChecks i s.snap s.det, o = none) → namedRegions i s.snap = pre ++ r :: post →
    (∀ q ∈ pre ++ r :: post, q.base % 4 = 0) → (∀ q ∈ pre, q.start + 4 * q.words ≤ s.params.dmemSize) →
    s.params.dmemSize < r.start + 4 * r.words →
    ∃ t, exec i s = .next t ∧ FailsWith s t .memRange r.op.index

/-- With every operand aligned and in range, a read region that overlaps a write region, or two write regions that
overlap, fail the command with OVERLAP, and ERR_INFO is `x + 16·y` for the first overlapping pair `(x, y)` in the
order of R252; nothing else changes (R68, R255). -/
def Obligations.OverlappingRegionsFail : Prop :=
  ∀ (i : Instr) (s : State) (a b : Region),
    (∀ o ∈ fieldChecks i s.snap s.det, o = none) →
    (∀ q ∈ namedRegions i s.snap, q.base % 4 = 0 ∧ q.start + 4 * q.words ≤ s.params.dmemSize) →
    a ∈ namedRegions i s.snap → b ∈ namedRegions i s.snap → a ≠ b → b.op.isDst = true → Overlapping a b →
    ∃ t x y pre post, exec i s = .next t ∧
      [(Operand.src0, Operand.dst0), (.src0, .dst1), (.src1, .dst0), (.src1, .dst1), (.dst0, .dst1)] =
        pre ++ (x.op, y.op) :: post ∧
      x ∈ namedRegions i s.snap ∧ y ∈ namedRegions i s.snap ∧ Overlapping x y ∧
      (∀ u ∈ namedRegions i s.snap, ∀ v ∈ namedRegions i s.snap, (u.op, v.op) ∈ pre → ¬ Overlapping u v) ∧
      FailsWith s t .overlap (x.op.index + 16 * y.op.index)

/-! ### Encoding -/

/-- Decoding the encoding of a well-formed command gives the command back (R96, R99). -/
def Obligations.DecodeOfEncode : Prop :=
  ∀ i : Instr, WellFormed i = true → ∃ w, encode i = some w ∧ decode w = .instr i

/-- A word that decodes is the encoding of its command: decoding drops no bit, and no two words decode to one command
(R96, R97). -/
def Obligations.EncodeOfDecode : Prop :=
  ∀ (w : Word) (i : Instr), decode w = .instr i → WellFormed i = true ∧ encode i = some w

/-- The opcodes outside the table of R92 are reserved: a word with one does not decode, and pending it fails with
ILLEGAL_CMD and detail 0 (R93). -/
def Obligations.ReservedOpcodesAreIllegal : Prop :=
  (∀ w : Word, decode w = .illegal .reservedOpcode ↔
    ((5 ≤ w.toNat % 256 ∧ w.toNat % 256 ≤ 0x0F) ∨ (0x12 ≤ w.toNat % 256 ∧ w.toNat % 256 ≤ 0x1F) ∨
      (0x27 ≤ w.toNat % 256 ∧ w.toNat % 256 ≤ 0x2F) ∨ 0x33 ≤ w.toNat % 256)) ∧
  ∀ s : State, s.script = [] → s.status.busy = true → decode s.snap.cmdw = .illegal .reservedOpcode →
    ∃ t, step s = .next t ∧ FailsWith s t .illegalCmd 0

/-- A word with a defined opcode does not decode exactly if a bit its format marks must-be-zero is 1, and pending it
fails with ILLEGAL_CMD and detail 1; format M has no such bit (R90, R94). -/
def Obligations.MustBeZeroBitsAreIllegal : Prop :=
  (∀ w : Word, decode w = .illegal .mustBeZero ↔
    (w.toNat % 256 ∈ [0x00, 0x01, 0x10, 0x11, 0x20, 0x21, 0x23, 0x31] ∧ w.toNat / 2 ^ 8 ≠ 0) ∨
      (w.toNat % 256 ∈ [0x02, 0x22, 0x24, 0x32] ∧ w.toNat / 2 ^ 10 ≠ 0) ∨
      (w.toNat % 256 = 0x30 ∧ w.toNat / 2 ^ 14 ≠ 0) ∨ (w.toNat % 256 = 0x03 ∧ w.toNat / 2 ^ 19 ≠ 0) ∨
      (w.toNat % 256 = 0x04 ∧ w.toNat / 2 ^ 25 ≠ 0) ∨ (w.toNat % 256 = 0x25 ∧ w.toNat / 2 ^ 26 ≠ 0)) ∧
  ∀ s : State, s.script = [] → s.status.busy = true → decode s.snap.cmdw = .illegal .mustBeZero →
    ∃ t, step s = .next t ∧ FailsWith s t .illegalCmd 1

/-- The worked encodings of R100, all of them: each word and its command decode and encode to each other, two words do
not decode, and one decodes to a command that fails INVALID_PARAM. -/
def Obligations.WorkedEncodingsDecode : Prop :=
  (∀ p ∈ [(0x00000000#32, Instr.nop), (0x00000001#32, .prsg), (0x00000102#32, .pssGen 1), (0x00020503#32, .sssGen 5 1),
      (0x00054F03#32, .sssGen 335 2), (0x000C1104#32, .dmrsGen 17 3 0), (0x011FEF04#32, .dmrsGen 1007 7 1),
      (0x00000010#32, .qpskMod), (0x00000011#32, .qpskDemod), (0x00000020#32, .mapPss), (0x00000021#32, .mapSss),
      (0x00000122#32, .mapPbch 1), (0x00000023#32, .unmapSss), (0x00000324#32, .unmapPbch 3),
      (0x00020025#32, .ssbGen 0 1 0 0), (0x00200026#32, .mapSsb 0 2), (0x00800C26#32, .mapSsb 12 8),
      (0x00000030#32, .detReset 0), (0x00000730#32, .detReset 7), (0x00000031#32, .detStep),
      (0x00000132#32, .decodeSss 1)],
    decode p.1 = .instr p.2 ∧ encode p.2 = some p.1) ∧
  decode 0x00000005#32 = .illegal .reservedOpcode ∧ decode 0x00000401#32 = .illegal .mustBeZero ∧
  decode 0x00000302#32 = .instr (.pssGen 3) ∧
  ∀ s : State, ∃ t, exec (.pssGen 3) s = .next t ∧ FailsWith s t .invalidParam 2

/-! ### The step -/

/-- The engine's turn runs the decoded pending command: `step` is `exec` of it, unless the command reaches a device window
(then it is refused, R75; log entry 9) or the host has raced with it (then the race is settled after it, R72; how is
the model's reading, log entry 7). -/
def Obligations.StepRunsDecodedCommand : Prop :=
  ∀ (s s0 : State) (i : Instr), (s.script = [] ∧ s0 = s ∨ ∃ rest, s.script = .engine :: rest ∧
      s0 = { s with script := rest }) →
    s.status.busy = true → decode s.snap.cmdw = .instr i →
    (s.params.deviceWindows = [] → s.raced = false → step s = exec i s0) ∧
    (reachesDevice i s = true → step s = .refused .deviceRegion) ∧
    (reachesDevice i s = false → ∀ t, exec i s0 = .next t → step s = .next (settleRace i s0 t))

/-- A host write to `CMD` (R42): while BUSY or ERR is 1 it is dropped and only sets OVR; else the snapshot is taken,
BUSY is set and DONE is cleared. -/
def Obligations.CommandWriteAcceptedOrDropped : Prop :=
  ∀ (s : State) (rest : List Move) (w : Word), s.params.mmioBase % 0x100 = 0 →
    s.script = .regWrite (s.params.mmioBase + 0x00C) 4 w :: rest →
    ((s.status.busy = true ∨ s.status.err = true) →
      step s = .next { s with script := rest, status := { s.status with ovr := true } }) ∧
    (s.status.busy = false → s.status.err = false →
      step s = .next { s with
        script := rest
        snap := ⟨w, s.src0, s.src1, s.dst0, s.dst1, s.len, s.cinit, s.cfg, s.threshHi ++ s.threshLo⟩
        status := { s.status with busy := true, done := false }
        raced := false })

/-- A host write of `w` to `STATUS` clears each W1C bit that `w` names, ERR_CODE with ERR, and nothing else (R23, R258):
seen through the register word. -/
def Obligations.StatusWriteOneClears : Prop :=
  ∀ (s : State) (rest : List Move) (w : Word), s.params.mmioBase % 0x100 = 0 →
    s.script = .regWrite (s.params.mmioBase + 0x008) 4 w :: rest →
    ∃ t, step s = .next t ∧ t = { s with script := rest, status := t.status } ∧
      ∀ b, b < 32 → (t.readReg 0x008).getLsbD b =
        ((s.readReg 0x008).getLsbD b && !((decide (1 ≤ b) && decide (b ≤ 6) && w.getLsbD b) ||
          (decide (8 ≤ b) && decide (b ≤ 11) && w.getLsbD 2)))

/-- An RW register reads back what was written, but for its RAZ/WI bits (R22, R25 to R29, R38). -/
def Obligations.WrittenRegisterReadsBack : Prop :=
  ∀ (s : State) (v : Word),
    (∀ off ∈ [0x010, 0x014, 0x018, 0x01C, 0x020, 0x02C, 0x030], (s.writeReg off v).readReg off = v) ∧
    (s.writeReg 0x024 v).readReg 0x024 = v &&& 0x7FFFFFFF#32 ∧
    (s.writeReg 0x028 v).readReg 0x028 = v &&& 0x7F0701FF#32 ∧
    (v.getLsbD 31 = false → (s.writeReg 0x004 v).readReg 0x004 = v &&& 0x0000000F#32)

/-- A host write to an RO register or a reserved offset changes nothing (R38, R40). -/
def Obligations.ReadOnlyWritesIgnored : Prop :=
  ∀ (s : State) (v : Word) (off : Nat), (off = 0x000 ∨ 0x034 ≤ off) → s.writeReg off v = s

/-- The registers after power-on reset read as the table of R21 says, the detector is SEARCHING with zero fields, and the
block is idle and executes nothing (R46, R290). -/
def Obligations.ResetRegisterValues : Prop :=
  ∀ p : Params,
    (∀ off, (State.powerOn p).readReg off =
      if off = 0x000 then 0x53534201#32 else if off = 0x02C ∨ off = 0x030 then 0xFFFFFFFF#32
      else if off = 0x034 then 0x00000007#32 else 0#32) ∧
    (State.powerOn p).irq = false ∧ (State.powerOn p).status.busy = false ∧ (State.powerOn p).det.srem = .searching ∧
    (State.powerOn p).det.nid2 = 0#2 ∧ (State.powerOn p).det.kssb = 0#12 ∧ (State.powerOn p).det.issb = 0#6 ∧
    step (State.powerOn p) = .next (State.powerOn p)

/-- A soft reset puts every register at its reset value and the detector at SEARCHING, in any state; DMEM stays, but for
the W regions of a pending command (R291, R292; that they count even if the command would have failed, and are clipped
to DMEM, is the model's reading, log entry 8). -/
def Obligations.SoftResetRestoresRegisters : Prop :=
  ∀ (s : State) (rest : List Move) (w : Word), s.params.mmioBase % 0x100 = 0 →
    s.script = .regWrite (s.params.mmioBase + 0x004) 4 w :: rest → w.getLsbD 31 = true →
    ∃ t, step s = .next t ∧ (∀ off, t.readReg off = (State.powerOn s.params).readReg off) ∧ t.params = s.params ∧
      t.status.busy = false ∧ t.det.srem = .searching ∧ t.det.nid2 = 0#2 ∧ t.det.kssb = 0#12 ∧ t.det.issb = 0#6 ∧
      (s.status.busy = false → t.mem = s.mem) ∧
      ∀ x, (∀ r ∈ s.pendingRegions, r.op.isDst = true → x < r.start ∨ r.start + 4 * r.words ≤ x) →
        t.byteAt x = s.byteAt x

/-- The interrupt line is the level of R48, in terms of the bits the host reads. -/
def Obligations.IrqIsLevelOfEnabledBits : Prop :=
  ∀ s : State, s.irq =
    (((s.readReg 0x008).getLsbD 1 && (s.readReg 0x004).getLsbD 0) ||
      ((s.readReg 0x008).getLsbD 2 && (s.readReg 0x004).getLsbD 1) ||
      ((s.readReg 0x008).getLsbD 3 && (s.readReg 0x004).getLsbD 2) ||
      (((s.readReg 0x008).getLsbD 4 || (s.readReg 0x008).getLsbD 5 || (s.readReg 0x008).getLsbD 6) &&
        (s.readReg 0x004).getLsbD 3))

/-- A host register access that touches the window and is not an aligned 32-bit one is refused: R39 and item U1 leave it
unspecified, and the refusal is the model's choice (log entry 10). -/
def Obligations.UnsupportedRegisterAccessRefused : Prop :=
  ∀ (s : State) (rest : List Move) (addr width : Nat) (v : Word), s.params.mmioBase % 0x100 = 0 →
    s.params.mmioBase < addr + width → addr < s.params.mmioBase + 0x100 → 0 < width → (width ≠ 4 ∨ addr % 4 ≠ 0) →
    (s.script = .regWrite addr width v :: rest ∨ s.script = .regRead addr width :: rest) →
    step s = .refused .registerAccess

/-- The host's own path to DMEM (R60, R70; as moves of the model's schedule, log entry 5): a write stores its bytes, in order, and leaves every other byte; a read while
no command is pending returns the bytes. Neither changes a register or the detector. -/
def Obligations.HostReadsAndWritesBytes : Prop :=
  ∀ (s : State) (rest : List Move) (addr n : Nat) (bytes : List Byte),
    (s.script = .dmemWrite addr bytes :: rest → addr + bytes.length ≤ s.params.dmemSize →
      ∃ t, step s = .next t ∧ t = { s with script := rest, mem := t.mem, raced := t.raced } ∧
        (∀ j (h : j < bytes.length), t.byteAt (addr + j) = bytes[j]) ∧
        ∀ x, x < addr ∨ addr + bytes.length ≤ x → t.byteAt x = s.byteAt x) ∧
    (s.script = .dmemRead addr n :: rest → addr + n ≤ s.params.dmemSize → s.status.busy = false →
      ∃ t, step s = .next t ∧ t = { s with script := rest, dmemRd := t.dmemRd, freeCtr := t.freeCtr } ∧
        t.dmemRd.length = n ∧ ∀ j (h : j < t.dmemRd.length), t.dmemRd[j] = s.byteAt (addr + j))

/-! ### What a command cannot do -/

/-- A write to an operand or configuration register while a command is pending commutes with its completion: the command
reads its snapshot (R40, R303). -/
def Obligations.SnapshotIsolatesPendingCommand : Prop :=
  ∀ (i : Instr) (s t : State) (off : Nat) (v : Word),
    off ∈ [0x010, 0x014, 0x018, 0x01C, 0x020, 0x024, 0x028, 0x02C, 0x030] →
    exec i s = .next t → exec i (s.writeReg off v) = .next (t.writeReg off v)

/-- No command but DET_RESET and DET_STEP reads or writes the detector state (R210). On success, such a command, but for
DECODE_SSS, changes DMEM, BUSY and DONE alone: no other flag and no result register (R120, R150, R170). -/
def Obligations.OnlyDetectorCommandsTouchDetector : Prop :=
  ∀ (i : Instr) (s t : State) (d : Detector), i ≠ .detStep → (∀ n, i ≠ .detReset n) → exec i s = .next t →
    t.det = s.det ∧ exec i { s with det := d } = .next { t with det := d } ∧
      ((∀ n, i ≠ .decodeSss n) → commandError i s = none → SucceedsWriting s t)

/-- No command writes an operand, configuration or control register (R44); DET_RES and the CORR registers change only in
DET_STEP (R31 to R33), the SSS registers only in DECODE_SSS (R34, R35), and the detector's flags only in DET_STEP (R45). -/
def Obligations.CommandsKeepOtherRegisters : Prop :=
  ∀ (i : Instr) (s t : State), exec i s = .next t →
    (t.src0 = s.src0 ∧ t.src1 = s.src1 ∧ t.dst0 = s.dst0 ∧ t.dst1 = s.dst1 ∧ t.len = s.len ∧ t.cinit = s.cinit ∧
      t.cfg = s.cfg ∧ t.threshLo = s.threshLo ∧ t.threshHi = s.threshHi ∧ t.ctrl = s.ctrl ∧ t.params = s.params ∧
      t.snap = s.snap ∧ t.script = s.script) ∧
    (i ≠ .detStep → t.detRes = s.detRes ∧ t.corr = s.corr ∧ t.corrPos = s.corrPos ∧
      t.status.detValid = s.status.detValid ∧ t.status.detOvf = s.status.detOvf ∧
      t.status.peakOob = s.status.peakOob) ∧
    ((∀ n, i ≠ .decodeSss n) → t.sssRes = s.sssRes ∧ t.sssCorr = s.sssCorr)

/-- A well-formed command writes no byte of DMEM outside its W regions (R61, R67). -/
def Obligations.WritesStayInsideOutputRegions : Prop :=
  ∀ (i : Instr) (s t : State) (x : Nat), WellFormed i = true → exec i s = .next t →
    (i = .detStep → s.det.buf.length = 960) →
    (∀ r ∈ namedRegions i s.snap, r.op.isDst = true → x < r.start ∨ r.start + 4 * r.words ≤ x) →
    t.byteAt x = s.byteAt x

/-- Settling a race changes only DMEM inside the command's W regions, its own result registers and the count of used free
values: all other state is as the command left it (R72; the model's reading of item U3, log entry 7). -/
def Obligations.RaceAffectsOnlyOutputs : Prop :=
  ∀ (i : Instr) (s t : State) (x : Nat), exec i s = .next t →
    (∀ r ∈ namedRegions i s.snap, r.op.isDst = true → x < r.start ∨ r.start + 4 * r.words ≤ x) →
    ∃ u, settleRace i s t = u ∧ u.byteAt x = t.byteAt x ∧
      u = { t with
        mem := u.mem, detRes := u.detRes, corr := u.corr, corrPos := u.corrPos, sssRes := u.sssRes
        sssCorr := u.sssCorr, freeCtr := u.freeCtr } ∧
      (i ≠ .detStep → u.detRes = t.detRes ∧ u.corr = t.corr ∧ u.corrPos = t.corrPos) ∧
      ((∀ n, i ≠ .decodeSss n) → u.sssRes = t.sssRes ∧ u.sssCorr = t.sssCorr)

/-! ### Memory and pure functions -/

/-- Two memories in the canonical form that hold the same bytes are the same data (the model's canonical form, log entry
2). -/
def Obligations.CanonicalMemoryIsExtensional : Prop :=
  ∀ m m' : Memory, m.wf → m'.wf → (∀ a, m.byte? a = m'.byte? a) → m = m'

/-- `PRSG(m, c)` is the first `m` bits of `PRSG(n, c)`, and has length `m` (R126). -/
def Obligations.PrsgPrefix : Prop :=
  ∀ (m n : Nat) (c : BitVec 31), m ≤ n → prsg m c = (prsg n c).take m ∧ (prsg n c).length = n

/-- A PSS or SSS correlation's parts are at most 4161536 in magnitude, so its metric `re^2 + im^2` is at most
34636763758592 < 2^45 (R213). -/
def Obligations.MetricIsBounded : Prop :=
  ∀ (p : Params) (y : List Sample) (nid1 nid2 sh : Nat), ∀ c ∈ [corr (pss p nid2) y sh, corr (sss p nid1 nid2) y sh],
    c.1.natAbs ≤ 4161536 ∧ c.2.natAbs ≤ 4161536 ∧ (metric c : Int) = c.1 * c.1 + c.2 * c.2 ∧
      metric c ≤ 34636763758592 ∧ metric c < 2 ^ 45

/-- The PSS sweep (R214): with a shift to try, it returns the first maximum in the order NID2 ascending, then shift
ascending, and its metric; with none it is empty. -/
def Obligations.SweepReturnsFirstMaximum : Prop :=
  ∀ (p : Params) (y : List Sample) (nSc : Nat),
    (nSc < 127 → sweep p y nSc = ⟨false, 0, 0, 0⟩) ∧
    (127 ≤ nSc →
      (sweep p y nSc).swept = true ∧ (sweep p y nSc).h ≤ 2 ∧ (sweep p y nSc).s ≤ nSc - 127 ∧
      (sweep p y nSc).m = metric (corr (pss p (sweep p y nSc).h) y (sweep p y nSc).s) ∧
      ∀ h s, h ≤ 2 → s ≤ nSc - 127 →
        metric (corr (pss p h) y s) ≤ (sweep p y nSc).m ∧
        ((h < (sweep p y nSc).h ∨ (h = (sweep p y nSc).h ∧ s < (sweep p y nSc).s)) →
          metric (corr (pss p h) y s) < (sweep p y nSc).m))

/-- The grid SSB_GEN writes is the sum, sample by sample and without overflow, of MAP_PSS's, MAP_SSS's and MAP_PBCH's
grids (R188). -/
def Obligations.SsbGridIsSumOfParts : Prop :=
  ∀ (p : Params) (nid1 nid2 lMax issb nhf k l : Nat) (pbch : List Sample), pbch.length = 432 → k < 240 → l < 4 →
    let whole := gridAt (ssbGrid p nid1 nid2 lMax issb nhf pbch) (k, l)
    let a := gridAt (syncGrid 0 ((pss p nid2).map bipolar)) (k, l)
    let b := gridAt (syncGrid 2 ((sss p nid1 nid2).map bipolar)) (k, l)
    let c := gridAt (pbchGrid ((3 * nid1 + nid2) % 4) pbch (dmrs issb (3 * nid1 + nid2) lMax nhf)) (k, l)
    whole.i.toInt = a.i.toInt + b.i.toInt + c.i.toInt ∧ whole.q.toInt = a.q.toInt + b.q.toInt + c.q.toInt

/-! ### Round trips -/

/-- QPSK_DEMOD of QPSK_MOD's output returns the bits (R157). -/
def Obligations.QpskRoundTrip : Prop :=
  ∀ s t u v : State, commandError .qpskMod s = none → exec .qpskMod s = .next t → u.mem = t.mem →
    u.snap.src0 = s.snap.dst0 → u.snap.len.toNat = s.snap.len.toNat / 2 → commandError .qpskDemod u = none →
    exec .qpskDemod u = .next v →
    ∀ i, i < s.snap.len.toNat → v.vectorBit u.snap.dst0.toNat i = s.vectorBit s.snap.src0.toNat i

/-- UNMAP_SSS of MAP_SSS's grid returns the samples (R181). -/
def Obligations.SssMappingRoundTrip : Prop :=
  ∀ s t u v : State, commandError .mapSss s = none → exec .mapSss s = .next t → u.mem = t.mem →
    u.snap.src0 = s.snap.dst0 → commandError .unmapSss u = none → exec .unmapSss u = .next v →
    ∀ n, n < 127 → v.memRead (u.snap.dst0.toNat + 4 * n) = s.memRead (s.snap.src0.toNat + 4 * n)

/-- UNMAP_PBCH of MAP_PBCH's grid with the same `nu` returns the PBCH and DM-RS samples (R184). -/
def Obligations.PbchMappingRoundTrip : Prop :=
  ∀ (nu : Nat) (s t u v : State), nu < 4 → commandError (.mapPbch nu) s = none → exec (.mapPbch nu) s = .next t →
    u.mem = t.mem → u.snap.src0 = s.snap.dst0 → commandError (.unmapPbch nu) u = none →
    exec (.unmapPbch nu) u = .next v →
    (∀ i, i < 432 → v.memRead (u.snap.dst0.toNat + 4 * i) = s.memRead (s.snap.src0.toNat + 4 * i)) ∧
    ∀ j, j < 144 → v.memRead (u.snap.dst1.toNat + 4 * j) = s.memRead (s.snap.src1.toNat + 4 * j)

/-- From a trigger, four consecutive DET_STEPs of which the last three do not trigger emit the windows of their four
symbols, the triggering one's as column 0, and the triggering peak's identity; the old content of `BUF` cannot be
seen (R46, R217 to R219). -/
def Obligations.DetectorEmitsFourSymbols : Prop :=
  ∀ s1 t1 s2 t2 s3 t3 s4 : State, DetReady s1 → DetReady s2 → DetReady s3 → DetReady s4 →
    s1.det.buf.length = 960 → s1.Triggers → exec .detStep s1 = .next t1 →
    s2.det = t1.det → ¬ s2.Triggers → exec .detStep s2 = .next t2 →
    s3.det = t2.det → ¬ s3.Triggers → exec .detStep s3 = .next t3 →
    s4.det = t3.det → ¬ s4.Triggers →
    ∃ t4, exec .detStep s4 = .next t4 ∧ t4.status.detValid = true ∧ t4.det.srem = .searching ∧
      t4.detRes.nid2.toNat = s1.sweepResult.h ∧ t4.detRes.kssb.toNat = s1.sweepResult.s - 56 ∧
      t4.detRes.issb = t1.det.issb ∧
      ∀ k, k < 240 →
        t4.memRead (gridAddr s4.snap.dst0.toNat (k, 0)) =
          s1.memRead (s1.snap.src0.toNat + 4 * (s1.sweepResult.s - 56 + k)) ∧
        t4.memRead (gridAddr s4.snap.dst0.toNat (k, 1)) =
          s2.memRead (s2.snap.src0.toNat + 4 * (s1.sweepResult.s - 56 + k)) ∧
        t4.memRead (gridAddr s4.snap.dst0.toNat (k, 2)) =
          s3.memRead (s3.snap.src0.toNat + 4 * (s1.sweepResult.s - 56 + k)) ∧
        t4.memRead (gridAddr s4.snap.dst0.toNat (k, 3)) =
          s4.memRead (s4.snap.src0.toNat + 4 * (s1.sweepResult.s - 56 + k))

/-! ### The invariant -/

/-- The invariant holds after power-on reset, for every legal choice of the parameters, `State.reset`'s among them. -/
def Obligations.ResetHasInvariant : Prop :=
  (∀ p : Params, p.wf → State.Inv (State.powerOn p)) ∧ State.Inv State.reset

/-- Every step from a state with the invariant gives a state with the invariant. -/
def Obligations.StepKeepsInvariant : Prop := ∀ s t : State, s.Inv → step s = .next t → t.Inv
end

