-- ==== Sys2Proof/Laws/SeqGen.lean ====
section
/-!
SUPPORT. The shift registers compute the sequences their recurrences define (40_seqgen.md R122 to R132), and the lengths
of the generated sequences.
-/

namespace Sys2Proof.Machine

/-! ### Shift registers -/

/-- The sequence a shift register puts out. -/
def shiftSeq {w : Nat} (fb : BitVec (w + 1) → Bool) (x : BitVec (w + 1)) (i : Nat) : Bool :=
  (shiftAdvance fb i x).getLsbD 0

theorem shiftNext_getLsbD {w : Nat} (fb : BitVec (w + 1) → Bool) (x : BitVec (w + 1)) (j : Nat) (h : j < w) :
    (shiftNext fb x).getLsbD j = x.getLsbD (j + 1) := by
  simp only [shiftNext, BitVec.getLsbD_cons]
  rw [if_neg (by omega)]
  simp [h, Nat.add_comm]

theorem shiftNext_getLsbD_top {w : Nat} (fb : BitVec (w + 1) → Bool) (x : BitVec (w + 1)) :
    (shiftNext fb x).getLsbD w = fb x := by
  rw [shiftNext, BitVec.getLsbD_cons, if_pos rfl]

@[simp] theorem evaluated_eq {w : Nat} {α : Type} (x : BitVec w) (f : BitVec w → α) : evaluated x f = f x := by
  have e : f (BitVec.ofNat w x.toNat) = f x := by rw [BitVec.ofNat_toNat, BitVec.setWidth_eq]
  unfold evaluated
  split <;> rename_i h <;> rwa [h] at e

theorem shiftAdvance_step {w : Nat} (fb : BitVec (w + 1) → Bool) (n : Nat) (x : BitVec (w + 1)) :
    shiftAdvance fb (n + 1) x = shiftAdvance fb n (shiftNext fb x) := by
  rw [shiftAdvance, evaluated_eq]

theorem shiftAdvance_succ {w : Nat} (fb : BitVec (w + 1) → Bool) (n : Nat) (x : BitVec (w + 1)) :
    shiftAdvance fb (n + 1) x = shiftNext fb (shiftAdvance fb n x) := by
  induction n generalizing x with
  | zero => rw [shiftAdvance_step, shiftAdvance, shiftAdvance]
  | succ n ih => rw [shiftAdvance_step, ih, shiftAdvance_step]

theorem shiftAdvance_add {w : Nat} (fb : BitVec (w + 1) → Bool) (m n : Nat) (x : BitVec (w + 1)) :
    shiftAdvance fb (m + n) x = shiftAdvance fb n (shiftAdvance fb m x) := by
  induction n with
  | zero => rfl
  | succ n ih => rw [← Nat.add_assoc, shiftAdvance_succ, ih, shiftAdvance_succ]

/-- The register after `i` steps holds the sequence from `i` on. -/
theorem shiftAdvance_getLsbD {w : Nat} (fb : BitVec (w + 1) → Bool) (x : BitVec (w + 1)) (i j : Nat) (h : j ≤ w) :
    (shiftAdvance fb i x).getLsbD j = shiftSeq fb x (i + j) := by
  induction j generalizing i with
  | zero => rfl
  | succ j ih =>
    rw [← shiftNext_getLsbD fb _ j (by omega), ← shiftAdvance_succ, ih (i + 1) (by omega)]
    congr 1
    omega

/-- The sequence starts with the seed. -/
theorem shiftSeq_seed {w : Nat} (fb : BitVec (w + 1) → Bool) (x : BitVec (w + 1)) (i : Nat) (h : i ≤ w) :
    shiftSeq fb x i = x.getLsbD i := by
  have := shiftAdvance_getLsbD fb x 0 i h
  simpa [shiftAdvance] using this.symm

/-- The sequence goes on by the feedback. -/
theorem shiftSeq_next {w : Nat} (fb : BitVec (w + 1) → Bool) (x : BitVec (w + 1)) (i : Nat) :
    shiftSeq fb x (i + (w + 1)) = fb (shiftAdvance fb i x) := by
  have h := shiftAdvance_getLsbD fb x (i + 1) w (Nat.le_refl w)
  rw [shiftAdvance_succ, shiftNext_getLsbD_top] at h
  rw [h]
  congr 1
  omega

/-- Advancing first only moves the sequence. -/
theorem shiftSeq_shiftAdvance {w : Nat} (fb : BitVec (w + 1) → Bool) (x : BitVec (w + 1)) (n i : Nat) :
    shiftSeq fb (shiftAdvance fb n x) i = shiftSeq fb x (n + i) := by
  simp [shiftSeq, shiftAdvance_add]

@[simp] theorem shiftBits_length {w : Nat} (fb : BitVec (w + 1) → Bool) (n : Nat) (x : BitVec (w + 1)) :
    (shiftBits fb n x).length = n := by
  induction n generalizing x with
  | zero => rfl
  | succ n ih => simp [shiftBits, ih]

theorem shiftBits_getElem {w : Nat} (fb : BitVec (w + 1) → Bool) (n : Nat) (x : BitVec (w + 1)) (i : Nat)
    (h : i < (shiftBits fb n x).length) : (shiftBits fb n x)[i] = shiftSeq fb x i := by
  induction n generalizing x i with
  | zero => simp at h
  | succ n ih =>
    cases i with
    | zero => rfl
    | succ i =>
      simp only [shiftBits, evaluated_eq, List.getElem_cons_succ]
      rw [ih]
      have := shiftSeq_shiftAdvance fb x 1 i
      rw [shiftAdvance_step, shiftAdvance] at this
      rw [this, Nat.add_comm]

theorem shiftBits_getD {w : Nat} (fb : BitVec (w + 1) → Bool) (n : Nat) (x : BitVec (w + 1)) (i : Nat) (h : i < n) :
    (shiftBits fb n x).getD i false = shiftSeq fb x i := by
  rw [List.getD_eq_getElem _ _ (by simpa using h), shiftBits_getElem]

/-! ### Recurrences -/

theorem goldSeq1_next (x : BitVec 31) (i : Nat) :
    shiftSeq goldFb1 x (i + 31) = (shiftSeq goldFb1 x (i + 3) ^^ shiftSeq goldFb1 x i) := by
  rw [shiftSeq_next goldFb1 x i, goldFb1, shiftAdvance_getLsbD _ _ _ 3 (by omega),
    shiftAdvance_getLsbD _ _ _ 0 (by omega)]
  rfl

theorem goldSeq2_next (x : BitVec 31) (i : Nat) :
    shiftSeq goldFb2 x (i + 31) = (shiftSeq goldFb2 x (i + 3) ^^ shiftSeq goldFb2 x (i + 2) ^^
      shiftSeq goldFb2 x (i + 1) ^^ shiftSeq goldFb2 x i) := by
  rw [shiftSeq_next goldFb2 x i, goldFb2, shiftAdvance_getLsbD _ _ _ 3 (by omega),
    shiftAdvance_getLsbD _ _ _ 2 (by omega), shiftAdvance_getLsbD _ _ _ 1 (by omega),
    shiftAdvance_getLsbD _ _ _ 0 (by omega)]
  rfl

theorem mseq4_next (x : BitVec 7) (i : Nat) :
    shiftSeq mseqFb4 x (i + 7) = (shiftSeq mseqFb4 x (i + 4) ^^ shiftSeq mseqFb4 x i) := by
  rw [shiftSeq_next mseqFb4 x i, mseqFb4, shiftAdvance_getLsbD _ _ _ 4 (by omega),
    shiftAdvance_getLsbD _ _ _ 0 (by omega)]
  rfl

theorem mseq1_next (x : BitVec 7) (i : Nat) :
    shiftSeq mseqFb1 x (i + 7) = (shiftSeq mseqFb1 x (i + 1) ^^ shiftSeq mseqFb1 x i) := by
  rw [shiftSeq_next mseqFb1 x i, mseqFb1, shiftAdvance_getLsbD _ _ _ 1 (by omega),
    shiftAdvance_getLsbD _ _ _ 0 (by omega)]
  rfl

/-! ### Generated sequences -/

@[simp] theorem prsg_length (n : Nat) (c : BitVec 31) : (prsg n c).length = n := by simp [prsg]

/-- A bit of the Gold sequence (R124). -/
theorem prsg_getElem (n : Nat) (c : BitVec 31) (i : Nat) (h : i < (prsg n c).length) :
    (prsg n c)[i] = (shiftSeq goldFb1 1#31 (1600 + i) ^^ shiftSeq goldFb2 c (1600 + i)) := by
  simp only [prsg, List.getElem_zipWith, shiftBits_getElem, shiftSeq_shiftAdvance, Config.nC]

@[simp] theorem shiftedSigns_length (xs : List Bool) (m : Nat) : (shiftedSigns xs m).length = 127 := by
  simp [shiftedSigns]

theorem shiftedSigns_getElem (xs : List Bool) (m n : Nat) (h : n < (shiftedSigns xs m).length) :
    (shiftedSigns xs m)[n] = sign (xs.getD ((n + m) % 127) false) := by
  simp [shiftedSigns]

@[simp] theorem pss_length (p : Params) (h : Nat) : (pss p h).length = 127 := by simp [pss]

@[simp] theorem sss_length (p : Params) (a h : Nat) : (sss p a h).length = 127 := by simp [sss]

theorem sign_eq (b : Bool) : sign b = 1 ∨ sign b = -1 := by cases b <;> simp [sign]

theorem pss_mem {p : Params} {h : Nat} {d : Int} (hd : d ∈ pss p h) : d = 1 ∨ d = -1 := by
  simp only [pss, shiftedSigns, List.mem_map] at hd
  obtain ⟨n, _, rfl⟩ := hd
  exact sign_eq _

theorem sss_getElem (p : Params) (a h n : Nat) (hn : n < (sss p a h).length) :
    (sss p a h)[n] = sign ((sssBits0 p).getD ((n + sssM0 a h) % 127) false) *
      sign ((sssBits1 p).getD ((n + sssM1 a) % 127) false) := by
  simp [sss, shiftedSigns]

theorem sss_mem {p : Params} {a h : Nat} {d : Int} (hd : d ∈ sss p a h) : d = 1 ∨ d = -1 := by
  obtain ⟨n, hn, rfl⟩ := List.getElem_of_mem hd
  rw [sss_getElem]
  generalize (sssBits0 p).getD ((n + sssM0 a h) % 127) false = b0
  generalize (sssBits1 p).getD ((n + sssM1 a) % 127) false = b1
  cases b0 <;> cases b1 <;> simp [sign]

/-! ### Words of generated samples -/

theorem bipolar_word_pos : (bipolar 1).word = 0x00004000#32 := by decide

theorem bipolar_word_neg : (bipolar (-1)).word = 0x0000C000#32 := by decide

theorem bipolar_sign_word (b : Bool) : (bipolar (sign b)).word = if b then 0x0000C000#32 else 0x00004000#32 := by
  cases b <;> decide

/-- The table of R151. -/
theorem qpsk_word (b0 b1 : Bool) :
    (qpsk b0 b1).word = (if b1 then 0xD2BF#16 else 0x2D41#16) ++ (if b0 then 0xD2BF#16 else 0x2D41#16) := by
  cases b0 <;> cases b1 <;> decide

theorem qpskPairs_length (bs : List Bool) : (qpskPairs bs).length = bs.length / 2 := by
  induction bs using qpskPairs.induct with
  | case1 b0 b1 bs ih =>
    simp only [qpskPairs, List.length_cons, ih]
    omega
  | case2 b => simp [qpskPairs]
  | case3 => rfl

theorem qpskPairs_getElem (bs : List Bool) (i : Nat) (h : i < (qpskPairs bs).length) :
    (qpskPairs bs)[i] = qpsk (bs.getD (2 * i) false) (bs.getD (2 * i + 1) false) := by
  induction bs using qpskPairs.induct generalizing i with
  | case1 b0 b1 bs ih =>
    cases i with
    | zero => simp [qpskPairs]
    | succ i =>
      simp only [qpskPairs, List.getElem_cons_succ]
      rw [ih]
      rfl
  | case2 b => simp [qpskPairs] at h
  | case3 => simp [qpskPairs] at h

@[simp] theorem dmrs_length (i n l f : Nat) : (dmrs i n l f).length = 144 := by
  simp [dmrs, qpskPairs_length]

end Sys2Proof.Machine
end

