-- ==== Sys2Proof/Laws/State.lean ====
section
/-!
SUPPORT. One lemma per field per update of the state, so that no proof unfolds a record update.
-/

namespace Sys2Proof.Machine

variable (s : State)

/-! ### State.writeBytes -/

@[simp] theorem State.writeBytes_params (a : Nat) (bs : List Byte) : (s.writeBytes a bs).params = s.params := rfl
@[simp] theorem State.writeBytes_ctrl (a : Nat) (bs : List Byte) : (s.writeBytes a bs).ctrl = s.ctrl := rfl
@[simp] theorem State.writeBytes_status (a : Nat) (bs : List Byte) : (s.writeBytes a bs).status = s.status := rfl
@[simp] theorem State.writeBytes_src0 (a : Nat) (bs : List Byte) : (s.writeBytes a bs).src0 = s.src0 := rfl
@[simp] theorem State.writeBytes_src1 (a : Nat) (bs : List Byte) : (s.writeBytes a bs).src1 = s.src1 := rfl
@[simp] theorem State.writeBytes_dst0 (a : Nat) (bs : List Byte) : (s.writeBytes a bs).dst0 = s.dst0 := rfl
@[simp] theorem State.writeBytes_dst1 (a : Nat) (bs : List Byte) : (s.writeBytes a bs).dst1 = s.dst1 := rfl
@[simp] theorem State.writeBytes_len (a : Nat) (bs : List Byte) : (s.writeBytes a bs).len = s.len := rfl
@[simp] theorem State.writeBytes_cinit (a : Nat) (bs : List Byte) : (s.writeBytes a bs).cinit = s.cinit := rfl
@[simp] theorem State.writeBytes_cfg (a : Nat) (bs : List Byte) : (s.writeBytes a bs).cfg = s.cfg := rfl
@[simp] theorem State.writeBytes_threshLo (a : Nat) (bs : List Byte) : (s.writeBytes a bs).threshLo = s.threshLo := rfl
@[simp] theorem State.writeBytes_threshHi (a : Nat) (bs : List Byte) : (s.writeBytes a bs).threshHi = s.threshHi := rfl
@[simp] theorem State.writeBytes_det (a : Nat) (bs : List Byte) : (s.writeBytes a bs).det = s.det := rfl
@[simp] theorem State.writeBytes_detRes (a : Nat) (bs : List Byte) : (s.writeBytes a bs).detRes = s.detRes := rfl
@[simp] theorem State.writeBytes_corr (a : Nat) (bs : List Byte) : (s.writeBytes a bs).corr = s.corr := rfl
@[simp] theorem State.writeBytes_corrPos (a : Nat) (bs : List Byte) : (s.writeBytes a bs).corrPos = s.corrPos := rfl
@[simp] theorem State.writeBytes_sssRes (a : Nat) (bs : List Byte) : (s.writeBytes a bs).sssRes = s.sssRes := rfl
@[simp] theorem State.writeBytes_sssCorr (a : Nat) (bs : List Byte) : (s.writeBytes a bs).sssCorr = s.sssCorr := rfl
@[simp] theorem State.writeBytes_errInfo (a : Nat) (bs : List Byte) : (s.writeBytes a bs).errInfo = s.errInfo := rfl
@[simp] theorem State.writeBytes_errCmd (a : Nat) (bs : List Byte) : (s.writeBytes a bs).errCmd = s.errCmd := rfl
@[simp] theorem State.writeBytes_snap (a : Nat) (bs : List Byte) : (s.writeBytes a bs).snap = s.snap := rfl
@[simp] theorem State.writeBytes_mem (a : Nat) (bs : List Byte) : (s.writeBytes a bs).mem = s.mem.writeBytes a bs := rfl
@[simp] theorem State.writeBytes_script (a : Nat) (bs : List Byte) : (s.writeBytes a bs).script = s.script := rfl
@[simp] theorem State.writeBytes_regRd (a : Nat) (bs : List Byte) : (s.writeBytes a bs).regRd = s.regRd := rfl
@[simp] theorem State.writeBytes_dmemRd (a : Nat) (bs : List Byte) : (s.writeBytes a bs).dmemRd = s.dmemRd := rfl
@[simp] theorem State.writeBytes_raced (a : Nat) (bs : List Byte) : (s.writeBytes a bs).raced = s.raced := rfl
@[simp] theorem State.writeBytes_freeCtr (a : Nat) (bs : List Byte) : (s.writeBytes a bs).freeCtr = s.freeCtr := rfl

/-! ### State.writeWords -/

@[simp] theorem State.writeWords_params (a : Nat) (ws : List Word) : (s.writeWords a ws).params = s.params := rfl
@[simp] theorem State.writeWords_ctrl (a : Nat) (ws : List Word) : (s.writeWords a ws).ctrl = s.ctrl := rfl
@[simp] theorem State.writeWords_status (a : Nat) (ws : List Word) : (s.writeWords a ws).status = s.status := rfl
@[simp] theorem State.writeWords_src0 (a : Nat) (ws : List Word) : (s.writeWords a ws).src0 = s.src0 := rfl
@[simp] theorem State.writeWords_src1 (a : Nat) (ws : List Word) : (s.writeWords a ws).src1 = s.src1 := rfl
@[simp] theorem State.writeWords_dst0 (a : Nat) (ws : List Word) : (s.writeWords a ws).dst0 = s.dst0 := rfl
@[simp] theorem State.writeWords_dst1 (a : Nat) (ws : List Word) : (s.writeWords a ws).dst1 = s.dst1 := rfl
@[simp] theorem State.writeWords_len (a : Nat) (ws : List Word) : (s.writeWords a ws).len = s.len := rfl
@[simp] theorem State.writeWords_cinit (a : Nat) (ws : List Word) : (s.writeWords a ws).cinit = s.cinit := rfl
@[simp] theorem State.writeWords_cfg (a : Nat) (ws : List Word) : (s.writeWords a ws).cfg = s.cfg := rfl
@[simp] theorem State.writeWords_threshLo (a : Nat) (ws : List Word) : (s.writeWords a ws).threshLo = s.threshLo := rfl
@[simp] theorem State.writeWords_threshHi (a : Nat) (ws : List Word) : (s.writeWords a ws).threshHi = s.threshHi := rfl
@[simp] theorem State.writeWords_det (a : Nat) (ws : List Word) : (s.writeWords a ws).det = s.det := rfl
@[simp] theorem State.writeWords_detRes (a : Nat) (ws : List Word) : (s.writeWords a ws).detRes = s.detRes := rfl
@[simp] theorem State.writeWords_corr (a : Nat) (ws : List Word) : (s.writeWords a ws).corr = s.corr := rfl
@[simp] theorem State.writeWords_corrPos (a : Nat) (ws : List Word) : (s.writeWords a ws).corrPos = s.corrPos := rfl
@[simp] theorem State.writeWords_sssRes (a : Nat) (ws : List Word) : (s.writeWords a ws).sssRes = s.sssRes := rfl
@[simp] theorem State.writeWords_sssCorr (a : Nat) (ws : List Word) : (s.writeWords a ws).sssCorr = s.sssCorr := rfl
@[simp] theorem State.writeWords_errInfo (a : Nat) (ws : List Word) : (s.writeWords a ws).errInfo = s.errInfo := rfl
@[simp] theorem State.writeWords_errCmd (a : Nat) (ws : List Word) : (s.writeWords a ws).errCmd = s.errCmd := rfl
@[simp] theorem State.writeWords_snap (a : Nat) (ws : List Word) : (s.writeWords a ws).snap = s.snap := rfl
@[simp] theorem State.writeWords_mem (a : Nat) (ws : List Word) : (s.writeWords a ws).mem = s.mem.writeWords a ws := rfl
@[simp] theorem State.writeWords_script (a : Nat) (ws : List Word) : (s.writeWords a ws).script = s.script := rfl
@[simp] theorem State.writeWords_regRd (a : Nat) (ws : List Word) : (s.writeWords a ws).regRd = s.regRd := rfl
@[simp] theorem State.writeWords_dmemRd (a : Nat) (ws : List Word) : (s.writeWords a ws).dmemRd = s.dmemRd := rfl
@[simp] theorem State.writeWords_raced (a : Nat) (ws : List Word) : (s.writeWords a ws).raced = s.raced := rfl
@[simp] theorem State.writeWords_freeCtr (a : Nat) (ws : List Word) : (s.writeWords a ws).freeCtr = s.freeCtr := rfl

/-! ### State.writeSamples -/

@[simp] theorem State.writeSamples_params (a : Nat) (xs : List Sample) : (s.writeSamples a xs).params = s.params := rfl
@[simp] theorem State.writeSamples_ctrl (a : Nat) (xs : List Sample) : (s.writeSamples a xs).ctrl = s.ctrl := rfl
@[simp] theorem State.writeSamples_status (a : Nat) (xs : List Sample) : (s.writeSamples a xs).status = s.status := rfl
@[simp] theorem State.writeSamples_src0 (a : Nat) (xs : List Sample) : (s.writeSamples a xs).src0 = s.src0 := rfl
@[simp] theorem State.writeSamples_src1 (a : Nat) (xs : List Sample) : (s.writeSamples a xs).src1 = s.src1 := rfl
@[simp] theorem State.writeSamples_dst0 (a : Nat) (xs : List Sample) : (s.writeSamples a xs).dst0 = s.dst0 := rfl
@[simp] theorem State.writeSamples_dst1 (a : Nat) (xs : List Sample) : (s.writeSamples a xs).dst1 = s.dst1 := rfl
@[simp] theorem State.writeSamples_len (a : Nat) (xs : List Sample) : (s.writeSamples a xs).len = s.len := rfl
@[simp] theorem State.writeSamples_cinit (a : Nat) (xs : List Sample) : (s.writeSamples a xs).cinit = s.cinit := rfl
@[simp] theorem State.writeSamples_cfg (a : Nat) (xs : List Sample) : (s.writeSamples a xs).cfg = s.cfg := rfl
@[simp] theorem State.writeSamples_threshLo (a : Nat) (xs : List Sample) : (s.writeSamples a xs).threshLo = s.threshLo := rfl
@[simp] theorem State.writeSamples_threshHi (a : Nat) (xs : List Sample) : (s.writeSamples a xs).threshHi = s.threshHi := rfl
@[simp] theorem State.writeSamples_det (a : Nat) (xs : List Sample) : (s.writeSamples a xs).det = s.det := rfl
@[simp] theorem State.writeSamples_detRes (a : Nat) (xs : List Sample) : (s.writeSamples a xs).detRes = s.detRes := rfl
@[simp] theorem State.writeSamples_corr (a : Nat) (xs : List Sample) : (s.writeSamples a xs).corr = s.corr := rfl
@[simp] theorem State.writeSamples_corrPos (a : Nat) (xs : List Sample) : (s.writeSamples a xs).corrPos = s.corrPos := rfl
@[simp] theorem State.writeSamples_sssRes (a : Nat) (xs : List Sample) : (s.writeSamples a xs).sssRes = s.sssRes := rfl
@[simp] theorem State.writeSamples_sssCorr (a : Nat) (xs : List Sample) : (s.writeSamples a xs).sssCorr = s.sssCorr := rfl
@[simp] theorem State.writeSamples_errInfo (a : Nat) (xs : List Sample) : (s.writeSamples a xs).errInfo = s.errInfo := rfl
@[simp] theorem State.writeSamples_errCmd (a : Nat) (xs : List Sample) : (s.writeSamples a xs).errCmd = s.errCmd := rfl
@[simp] theorem State.writeSamples_snap (a : Nat) (xs : List Sample) : (s.writeSamples a xs).snap = s.snap := rfl
@[simp] theorem State.writeSamples_mem (a : Nat) (xs : List Sample) : (s.writeSamples a xs).mem = s.mem.writeWords a (xs.map Sample.word) := rfl
@[simp] theorem State.writeSamples_script (a : Nat) (xs : List Sample) : (s.writeSamples a xs).script = s.script := rfl
@[simp] theorem State.writeSamples_regRd (a : Nat) (xs : List Sample) : (s.writeSamples a xs).regRd = s.regRd := rfl
@[simp] theorem State.writeSamples_dmemRd (a : Nat) (xs : List Sample) : (s.writeSamples a xs).dmemRd = s.dmemRd := rfl
@[simp] theorem State.writeSamples_raced (a : Nat) (xs : List Sample) : (s.writeSamples a xs).raced = s.raced := rfl
@[simp] theorem State.writeSamples_freeCtr (a : Nat) (xs : List Sample) : (s.writeSamples a xs).freeCtr = s.freeCtr := rfl

/-! ### State.writeBits -/

@[simp] theorem State.writeBits_params (a : Nat) (bs : List Bool) : (s.writeBits a bs).params = s.params := rfl
@[simp] theorem State.writeBits_ctrl (a : Nat) (bs : List Bool) : (s.writeBits a bs).ctrl = s.ctrl := rfl
@[simp] theorem State.writeBits_status (a : Nat) (bs : List Bool) : (s.writeBits a bs).status = s.status := rfl
@[simp] theorem State.writeBits_src0 (a : Nat) (bs : List Bool) : (s.writeBits a bs).src0 = s.src0 := rfl
@[simp] theorem State.writeBits_src1 (a : Nat) (bs : List Bool) : (s.writeBits a bs).src1 = s.src1 := rfl
@[simp] theorem State.writeBits_dst0 (a : Nat) (bs : List Bool) : (s.writeBits a bs).dst0 = s.dst0 := rfl
@[simp] theorem State.writeBits_dst1 (a : Nat) (bs : List Bool) : (s.writeBits a bs).dst1 = s.dst1 := rfl
@[simp] theorem State.writeBits_len (a : Nat) (bs : List Bool) : (s.writeBits a bs).len = s.len := rfl
@[simp] theorem State.writeBits_cinit (a : Nat) (bs : List Bool) : (s.writeBits a bs).cinit = s.cinit := rfl
@[simp] theorem State.writeBits_cfg (a : Nat) (bs : List Bool) : (s.writeBits a bs).cfg = s.cfg := rfl
@[simp] theorem State.writeBits_threshLo (a : Nat) (bs : List Bool) : (s.writeBits a bs).threshLo = s.threshLo := rfl
@[simp] theorem State.writeBits_threshHi (a : Nat) (bs : List Bool) : (s.writeBits a bs).threshHi = s.threshHi := rfl
@[simp] theorem State.writeBits_det (a : Nat) (bs : List Bool) : (s.writeBits a bs).det = s.det := rfl
@[simp] theorem State.writeBits_detRes (a : Nat) (bs : List Bool) : (s.writeBits a bs).detRes = s.detRes := rfl
@[simp] theorem State.writeBits_corr (a : Nat) (bs : List Bool) : (s.writeBits a bs).corr = s.corr := rfl
@[simp] theorem State.writeBits_corrPos (a : Nat) (bs : List Bool) : (s.writeBits a bs).corrPos = s.corrPos := rfl
@[simp] theorem State.writeBits_sssRes (a : Nat) (bs : List Bool) : (s.writeBits a bs).sssRes = s.sssRes := rfl
@[simp] theorem State.writeBits_sssCorr (a : Nat) (bs : List Bool) : (s.writeBits a bs).sssCorr = s.sssCorr := rfl
@[simp] theorem State.writeBits_errInfo (a : Nat) (bs : List Bool) : (s.writeBits a bs).errInfo = s.errInfo := rfl
@[simp] theorem State.writeBits_errCmd (a : Nat) (bs : List Bool) : (s.writeBits a bs).errCmd = s.errCmd := rfl
@[simp] theorem State.writeBits_snap (a : Nat) (bs : List Bool) : (s.writeBits a bs).snap = s.snap := rfl
@[simp] theorem State.writeBits_mem (a : Nat) (bs : List Bool) : (s.writeBits a bs).mem = s.mem.writeWords a (packBits bs) := rfl
@[simp] theorem State.writeBits_script (a : Nat) (bs : List Bool) : (s.writeBits a bs).script = s.script := rfl
@[simp] theorem State.writeBits_regRd (a : Nat) (bs : List Bool) : (s.writeBits a bs).regRd = s.regRd := rfl
@[simp] theorem State.writeBits_dmemRd (a : Nat) (bs : List Bool) : (s.writeBits a bs).dmemRd = s.dmemRd := rfl
@[simp] theorem State.writeBits_raced (a : Nat) (bs : List Bool) : (s.writeBits a bs).raced = s.raced := rfl
@[simp] theorem State.writeBits_freeCtr (a : Nat) (bs : List Bool) : (s.writeBits a bs).freeCtr = s.freeCtr := rfl

/-! ### State.writeGrid -/

@[simp] theorem State.writeGrid_params (a : Nat) (g : Grid) : (s.writeGrid a g).params = s.params := rfl
@[simp] theorem State.writeGrid_ctrl (a : Nat) (g : Grid) : (s.writeGrid a g).ctrl = s.ctrl := rfl
@[simp] theorem State.writeGrid_status (a : Nat) (g : Grid) : (s.writeGrid a g).status = s.status := rfl
@[simp] theorem State.writeGrid_src0 (a : Nat) (g : Grid) : (s.writeGrid a g).src0 = s.src0 := rfl
@[simp] theorem State.writeGrid_src1 (a : Nat) (g : Grid) : (s.writeGrid a g).src1 = s.src1 := rfl
@[simp] theorem State.writeGrid_dst0 (a : Nat) (g : Grid) : (s.writeGrid a g).dst0 = s.dst0 := rfl
@[simp] theorem State.writeGrid_dst1 (a : Nat) (g : Grid) : (s.writeGrid a g).dst1 = s.dst1 := rfl
@[simp] theorem State.writeGrid_len (a : Nat) (g : Grid) : (s.writeGrid a g).len = s.len := rfl
@[simp] theorem State.writeGrid_cinit (a : Nat) (g : Grid) : (s.writeGrid a g).cinit = s.cinit := rfl
@[simp] theorem State.writeGrid_cfg (a : Nat) (g : Grid) : (s.writeGrid a g).cfg = s.cfg := rfl
@[simp] theorem State.writeGrid_threshLo (a : Nat) (g : Grid) : (s.writeGrid a g).threshLo = s.threshLo := rfl
@[simp] theorem State.writeGrid_threshHi (a : Nat) (g : Grid) : (s.writeGrid a g).threshHi = s.threshHi := rfl
@[simp] theorem State.writeGrid_det (a : Nat) (g : Grid) : (s.writeGrid a g).det = s.det := rfl
@[simp] theorem State.writeGrid_detRes (a : Nat) (g : Grid) : (s.writeGrid a g).detRes = s.detRes := rfl
@[simp] theorem State.writeGrid_corr (a : Nat) (g : Grid) : (s.writeGrid a g).corr = s.corr := rfl
@[simp] theorem State.writeGrid_corrPos (a : Nat) (g : Grid) : (s.writeGrid a g).corrPos = s.corrPos := rfl
@[simp] theorem State.writeGrid_sssRes (a : Nat) (g : Grid) : (s.writeGrid a g).sssRes = s.sssRes := rfl
@[simp] theorem State.writeGrid_sssCorr (a : Nat) (g : Grid) : (s.writeGrid a g).sssCorr = s.sssCorr := rfl
@[simp] theorem State.writeGrid_errInfo (a : Nat) (g : Grid) : (s.writeGrid a g).errInfo = s.errInfo := rfl
@[simp] theorem State.writeGrid_errCmd (a : Nat) (g : Grid) : (s.writeGrid a g).errCmd = s.errCmd := rfl
@[simp] theorem State.writeGrid_snap (a : Nat) (g : Grid) : (s.writeGrid a g).snap = s.snap := rfl
@[simp] theorem State.writeGrid_mem (a : Nat) (g : Grid) : (s.writeGrid a g).mem = s.mem.writeWords a (g.map Sample.word) := rfl
@[simp] theorem State.writeGrid_script (a : Nat) (g : Grid) : (s.writeGrid a g).script = s.script := rfl
@[simp] theorem State.writeGrid_regRd (a : Nat) (g : Grid) : (s.writeGrid a g).regRd = s.regRd := rfl
@[simp] theorem State.writeGrid_dmemRd (a : Nat) (g : Grid) : (s.writeGrid a g).dmemRd = s.dmemRd := rfl
@[simp] theorem State.writeGrid_raced (a : Nat) (g : Grid) : (s.writeGrid a g).raced = s.raced := rfl
@[simp] theorem State.writeGrid_freeCtr (a : Nat) (g : Grid) : (s.writeGrid a g).freeCtr = s.freeCtr := rfl

/-! ### State.setPeakOob -/

@[simp] theorem State.setPeakOob_params : (s.setPeakOob).params = s.params := rfl
@[simp] theorem State.setPeakOob_ctrl : (s.setPeakOob).ctrl = s.ctrl := rfl
@[simp] theorem State.setPeakOob_status : (s.setPeakOob).status = { s.status with peakOob := true } := rfl
@[simp] theorem State.setPeakOob_src0 : (s.setPeakOob).src0 = s.src0 := rfl
@[simp] theorem State.setPeakOob_src1 : (s.setPeakOob).src1 = s.src1 := rfl
@[simp] theorem State.setPeakOob_dst0 : (s.setPeakOob).dst0 = s.dst0 := rfl
@[simp] theorem State.setPeakOob_dst1 : (s.setPeakOob).dst1 = s.dst1 := rfl
@[simp] theorem State.setPeakOob_len : (s.setPeakOob).len = s.len := rfl
@[simp] theorem State.setPeakOob_cinit : (s.setPeakOob).cinit = s.cinit := rfl
@[simp] theorem State.setPeakOob_cfg : (s.setPeakOob).cfg = s.cfg := rfl
@[simp] theorem State.setPeakOob_threshLo : (s.setPeakOob).threshLo = s.threshLo := rfl
@[simp] theorem State.setPeakOob_threshHi : (s.setPeakOob).threshHi = s.threshHi := rfl
@[simp] theorem State.setPeakOob_det : (s.setPeakOob).det = s.det := rfl
@[simp] theorem State.setPeakOob_detRes : (s.setPeakOob).detRes = s.detRes := rfl
@[simp] theorem State.setPeakOob_corr : (s.setPeakOob).corr = s.corr := rfl
@[simp] theorem State.setPeakOob_corrPos : (s.setPeakOob).corrPos = s.corrPos := rfl
@[simp] theorem State.setPeakOob_sssRes : (s.setPeakOob).sssRes = s.sssRes := rfl
@[simp] theorem State.setPeakOob_sssCorr : (s.setPeakOob).sssCorr = s.sssCorr := rfl
@[simp] theorem State.setPeakOob_errInfo : (s.setPeakOob).errInfo = s.errInfo := rfl
@[simp] theorem State.setPeakOob_errCmd : (s.setPeakOob).errCmd = s.errCmd := rfl
@[simp] theorem State.setPeakOob_snap : (s.setPeakOob).snap = s.snap := rfl
@[simp] theorem State.setPeakOob_mem : (s.setPeakOob).mem = s.mem := rfl
@[simp] theorem State.setPeakOob_script : (s.setPeakOob).script = s.script := rfl
@[simp] theorem State.setPeakOob_regRd : (s.setPeakOob).regRd = s.regRd := rfl
@[simp] theorem State.setPeakOob_dmemRd : (s.setPeakOob).dmemRd = s.dmemRd := rfl
@[simp] theorem State.setPeakOob_raced : (s.setPeakOob).raced = s.raced := rfl
@[simp] theorem State.setPeakOob_freeCtr : (s.setPeakOob).freeCtr = s.freeCtr := rfl

/-! ### State.setDetValid -/

@[simp] theorem State.setDetValid_params : (s.setDetValid).params = s.params := rfl
@[simp] theorem State.setDetValid_ctrl : (s.setDetValid).ctrl = s.ctrl := rfl
@[simp] theorem State.setDetValid_status : (s.setDetValid).status = { s.status with detOvf := s.status.detOvf || s.status.detValid, detValid := true } := rfl
@[simp] theorem State.setDetValid_src0 : (s.setDetValid).src0 = s.src0 := rfl
@[simp] theorem State.setDetValid_src1 : (s.setDetValid).src1 = s.src1 := rfl
@[simp] theorem State.setDetValid_dst0 : (s.setDetValid).dst0 = s.dst0 := rfl
@[simp] theorem State.setDetValid_dst1 : (s.setDetValid).dst1 = s.dst1 := rfl
@[simp] theorem State.setDetValid_len : (s.setDetValid).len = s.len := rfl
@[simp] theorem State.setDetValid_cinit : (s.setDetValid).cinit = s.cinit := rfl
@[simp] theorem State.setDetValid_cfg : (s.setDetValid).cfg = s.cfg := rfl
@[simp] theorem State.setDetValid_threshLo : (s.setDetValid).threshLo = s.threshLo := rfl
@[simp] theorem State.setDetValid_threshHi : (s.setDetValid).threshHi = s.threshHi := rfl
@[simp] theorem State.setDetValid_det : (s.setDetValid).det = s.det := rfl
@[simp] theorem State.setDetValid_detRes : (s.setDetValid).detRes = s.detRes := rfl
@[simp] theorem State.setDetValid_corr : (s.setDetValid).corr = s.corr := rfl
@[simp] theorem State.setDetValid_corrPos : (s.setDetValid).corrPos = s.corrPos := rfl
@[simp] theorem State.setDetValid_sssRes : (s.setDetValid).sssRes = s.sssRes := rfl
@[simp] theorem State.setDetValid_sssCorr : (s.setDetValid).sssCorr = s.sssCorr := rfl
@[simp] theorem State.setDetValid_errInfo : (s.setDetValid).errInfo = s.errInfo := rfl
@[simp] theorem State.setDetValid_errCmd : (s.setDetValid).errCmd = s.errCmd := rfl
@[simp] theorem State.setDetValid_snap : (s.setDetValid).snap = s.snap := rfl
@[simp] theorem State.setDetValid_mem : (s.setDetValid).mem = s.mem := rfl
@[simp] theorem State.setDetValid_script : (s.setDetValid).script = s.script := rfl
@[simp] theorem State.setDetValid_regRd : (s.setDetValid).regRd = s.regRd := rfl
@[simp] theorem State.setDetValid_dmemRd : (s.setDetValid).dmemRd = s.dmemRd := rfl
@[simp] theorem State.setDetValid_raced : (s.setDetValid).raced = s.raced := rfl
@[simp] theorem State.setDetValid_freeCtr : (s.setDetValid).freeCtr = s.freeCtr := rfl

/-! ### State.setOvr -/

@[simp] theorem State.setOvr_params : (s.setOvr).params = s.params := rfl
@[simp] theorem State.setOvr_ctrl : (s.setOvr).ctrl = s.ctrl := rfl
@[simp] theorem State.setOvr_status : (s.setOvr).status = { s.status with ovr := true } := rfl
@[simp] theorem State.setOvr_src0 : (s.setOvr).src0 = s.src0 := rfl
@[simp] theorem State.setOvr_src1 : (s.setOvr).src1 = s.src1 := rfl
@[simp] theorem State.setOvr_dst0 : (s.setOvr).dst0 = s.dst0 := rfl
@[simp] theorem State.setOvr_dst1 : (s.setOvr).dst1 = s.dst1 := rfl
@[simp] theorem State.setOvr_len : (s.setOvr).len = s.len := rfl
@[simp] theorem State.setOvr_cinit : (s.setOvr).cinit = s.cinit := rfl
@[simp] theorem State.setOvr_cfg : (s.setOvr).cfg = s.cfg := rfl
@[simp] theorem State.setOvr_threshLo : (s.setOvr).threshLo = s.threshLo := rfl
@[simp] theorem State.setOvr_threshHi : (s.setOvr).threshHi = s.threshHi := rfl
@[simp] theorem State.setOvr_det : (s.setOvr).det = s.det := rfl
@[simp] theorem State.setOvr_detRes : (s.setOvr).detRes = s.detRes := rfl
@[simp] theorem State.setOvr_corr : (s.setOvr).corr = s.corr := rfl
@[simp] theorem State.setOvr_corrPos : (s.setOvr).corrPos = s.corrPos := rfl
@[simp] theorem State.setOvr_sssRes : (s.setOvr).sssRes = s.sssRes := rfl
@[simp] theorem State.setOvr_sssCorr : (s.setOvr).sssCorr = s.sssCorr := rfl
@[simp] theorem State.setOvr_errInfo : (s.setOvr).errInfo = s.errInfo := rfl
@[simp] theorem State.setOvr_errCmd : (s.setOvr).errCmd = s.errCmd := rfl
@[simp] theorem State.setOvr_snap : (s.setOvr).snap = s.snap := rfl
@[simp] theorem State.setOvr_mem : (s.setOvr).mem = s.mem := rfl
@[simp] theorem State.setOvr_script : (s.setOvr).script = s.script := rfl
@[simp] theorem State.setOvr_regRd : (s.setOvr).regRd = s.regRd := rfl
@[simp] theorem State.setOvr_dmemRd : (s.setOvr).dmemRd = s.dmemRd := rfl
@[simp] theorem State.setOvr_raced : (s.setOvr).raced = s.raced := rfl
@[simp] theorem State.setOvr_freeCtr : (s.setOvr).freeCtr = s.freeCtr := rfl

/-! ### failCommand -/

@[simp] theorem failCommand_params (e : CmdError) : (failCommand s e).params = s.params := rfl
@[simp] theorem failCommand_ctrl (e : CmdError) : (failCommand s e).ctrl = s.ctrl := rfl
@[simp] theorem failCommand_status (e : CmdError) : (failCommand s e).status = { s.status with busy := false, err := true, errCode := e.code.code } := rfl
@[simp] theorem failCommand_src0 (e : CmdError) : (failCommand s e).src0 = s.src0 := rfl
@[simp] theorem failCommand_src1 (e : CmdError) : (failCommand s e).src1 = s.src1 := rfl
@[simp] theorem failCommand_dst0 (e : CmdError) : (failCommand s e).dst0 = s.dst0 := rfl
@[simp] theorem failCommand_dst1 (e : CmdError) : (failCommand s e).dst1 = s.dst1 := rfl
@[simp] theorem failCommand_len (e : CmdError) : (failCommand s e).len = s.len := rfl
@[simp] theorem failCommand_cinit (e : CmdError) : (failCommand s e).cinit = s.cinit := rfl
@[simp] theorem failCommand_cfg (e : CmdError) : (failCommand s e).cfg = s.cfg := rfl
@[simp] theorem failCommand_threshLo (e : CmdError) : (failCommand s e).threshLo = s.threshLo := rfl
@[simp] theorem failCommand_threshHi (e : CmdError) : (failCommand s e).threshHi = s.threshHi := rfl
@[simp] theorem failCommand_det (e : CmdError) : (failCommand s e).det = s.det := rfl
@[simp] theorem failCommand_detRes (e : CmdError) : (failCommand s e).detRes = s.detRes := rfl
@[simp] theorem failCommand_corr (e : CmdError) : (failCommand s e).corr = s.corr := rfl
@[simp] theorem failCommand_corrPos (e : CmdError) : (failCommand s e).corrPos = s.corrPos := rfl
@[simp] theorem failCommand_sssRes (e : CmdError) : (failCommand s e).sssRes = s.sssRes := rfl
@[simp] theorem failCommand_sssCorr (e : CmdError) : (failCommand s e).sssCorr = s.sssCorr := rfl
@[simp] theorem failCommand_errInfo (e : CmdError) : (failCommand s e).errInfo = BitVec.ofNat 32 e.info := rfl
@[simp] theorem failCommand_errCmd (e : CmdError) : (failCommand s e).errCmd = s.snap.cmdw := rfl
@[simp] theorem failCommand_snap (e : CmdError) : (failCommand s e).snap = s.snap := rfl
@[simp] theorem failCommand_mem (e : CmdError) : (failCommand s e).mem = s.mem := rfl
@[simp] theorem failCommand_script (e : CmdError) : (failCommand s e).script = s.script := rfl
@[simp] theorem failCommand_regRd (e : CmdError) : (failCommand s e).regRd = s.regRd := rfl
@[simp] theorem failCommand_dmemRd (e : CmdError) : (failCommand s e).dmemRd = s.dmemRd := rfl
@[simp] theorem failCommand_raced (e : CmdError) : (failCommand s e).raced = s.raced := rfl
@[simp] theorem failCommand_freeCtr (e : CmdError) : (failCommand s e).freeCtr = s.freeCtr := rfl

/-! ### succeedCommand -/

@[simp] theorem succeedCommand_params : (succeedCommand s).params = s.params := rfl
@[simp] theorem succeedCommand_ctrl : (succeedCommand s).ctrl = s.ctrl := rfl
@[simp] theorem succeedCommand_status : (succeedCommand s).status = { s.status with busy := false, done := true } := rfl
@[simp] theorem succeedCommand_src0 : (succeedCommand s).src0 = s.src0 := rfl
@[simp] theorem succeedCommand_src1 : (succeedCommand s).src1 = s.src1 := rfl
@[simp] theorem succeedCommand_dst0 : (succeedCommand s).dst0 = s.dst0 := rfl
@[simp] theorem succeedCommand_dst1 : (succeedCommand s).dst1 = s.dst1 := rfl
@[simp] theorem succeedCommand_len : (succeedCommand s).len = s.len := rfl
@[simp] theorem succeedCommand_cinit : (succeedCommand s).cinit = s.cinit := rfl
@[simp] theorem succeedCommand_cfg : (succeedCommand s).cfg = s.cfg := rfl
@[simp] theorem succeedCommand_threshLo : (succeedCommand s).threshLo = s.threshLo := rfl
@[simp] theorem succeedCommand_threshHi : (succeedCommand s).threshHi = s.threshHi := rfl
@[simp] theorem succeedCommand_det : (succeedCommand s).det = s.det := rfl
@[simp] theorem succeedCommand_detRes : (succeedCommand s).detRes = s.detRes := rfl
@[simp] theorem succeedCommand_corr : (succeedCommand s).corr = s.corr := rfl
@[simp] theorem succeedCommand_corrPos : (succeedCommand s).corrPos = s.corrPos := rfl
@[simp] theorem succeedCommand_sssRes : (succeedCommand s).sssRes = s.sssRes := rfl
@[simp] theorem succeedCommand_sssCorr : (succeedCommand s).sssCorr = s.sssCorr := rfl
@[simp] theorem succeedCommand_errInfo : (succeedCommand s).errInfo = s.errInfo := rfl
@[simp] theorem succeedCommand_errCmd : (succeedCommand s).errCmd = s.errCmd := rfl
@[simp] theorem succeedCommand_snap : (succeedCommand s).snap = s.snap := rfl
@[simp] theorem succeedCommand_mem : (succeedCommand s).mem = s.mem := rfl
@[simp] theorem succeedCommand_script : (succeedCommand s).script = s.script := rfl
@[simp] theorem succeedCommand_regRd : (succeedCommand s).regRd = s.regRd := rfl
@[simp] theorem succeedCommand_dmemRd : (succeedCommand s).dmemRd = s.dmemRd := rfl
@[simp] theorem succeedCommand_raced : (succeedCommand s).raced = s.raced := rfl
@[simp] theorem succeedCommand_freeCtr : (succeedCommand s).freeCtr = s.freeCtr := rfl

/-! ### acknowledge -/

@[simp] theorem acknowledge_params (w : Word) : (acknowledge s w).params = s.params := rfl
@[simp] theorem acknowledge_ctrl (w : Word) : (acknowledge s w).ctrl = s.ctrl := rfl
@[simp] theorem acknowledge_status (w : Word) : (acknowledge s w).status = s.status.w1c w := rfl
@[simp] theorem acknowledge_src0 (w : Word) : (acknowledge s w).src0 = s.src0 := rfl
@[simp] theorem acknowledge_src1 (w : Word) : (acknowledge s w).src1 = s.src1 := rfl
@[simp] theorem acknowledge_dst0 (w : Word) : (acknowledge s w).dst0 = s.dst0 := rfl
@[simp] theorem acknowledge_dst1 (w : Word) : (acknowledge s w).dst1 = s.dst1 := rfl
@[simp] theorem acknowledge_len (w : Word) : (acknowledge s w).len = s.len := rfl
@[simp] theorem acknowledge_cinit (w : Word) : (acknowledge s w).cinit = s.cinit := rfl
@[simp] theorem acknowledge_cfg (w : Word) : (acknowledge s w).cfg = s.cfg := rfl
@[simp] theorem acknowledge_threshLo (w : Word) : (acknowledge s w).threshLo = s.threshLo := rfl
@[simp] theorem acknowledge_threshHi (w : Word) : (acknowledge s w).threshHi = s.threshHi := rfl
@[simp] theorem acknowledge_det (w : Word) : (acknowledge s w).det = s.det := rfl
@[simp] theorem acknowledge_detRes (w : Word) : (acknowledge s w).detRes = s.detRes := rfl
@[simp] theorem acknowledge_corr (w : Word) : (acknowledge s w).corr = s.corr := rfl
@[simp] theorem acknowledge_corrPos (w : Word) : (acknowledge s w).corrPos = s.corrPos := rfl
@[simp] theorem acknowledge_sssRes (w : Word) : (acknowledge s w).sssRes = s.sssRes := rfl
@[simp] theorem acknowledge_sssCorr (w : Word) : (acknowledge s w).sssCorr = s.sssCorr := rfl
@[simp] theorem acknowledge_errInfo (w : Word) : (acknowledge s w).errInfo = s.errInfo := rfl
@[simp] theorem acknowledge_errCmd (w : Word) : (acknowledge s w).errCmd = s.errCmd := rfl
@[simp] theorem acknowledge_snap (w : Word) : (acknowledge s w).snap = s.snap := rfl
@[simp] theorem acknowledge_mem (w : Word) : (acknowledge s w).mem = s.mem := rfl
@[simp] theorem acknowledge_script (w : Word) : (acknowledge s w).script = s.script := rfl
@[simp] theorem acknowledge_regRd (w : Word) : (acknowledge s w).regRd = s.regRd := rfl
@[simp] theorem acknowledge_dmemRd (w : Word) : (acknowledge s w).dmemRd = s.dmemRd := rfl
@[simp] theorem acknowledge_raced (w : Word) : (acknowledge s w).raced = s.raced := rfl
@[simp] theorem acknowledge_freeCtr (w : Word) : (acknowledge s w).freeCtr = s.freeCtr := rfl

/-! ### State.pend -/

@[simp] theorem State.pend_params (w : Word) : (s.pend w).params = s.params := rfl
@[simp] theorem State.pend_ctrl (w : Word) : (s.pend w).ctrl = s.ctrl := rfl
@[simp] theorem State.pend_status (w : Word) : (s.pend w).status = { s.status with busy := true, done := false } := rfl
@[simp] theorem State.pend_src0 (w : Word) : (s.pend w).src0 = s.src0 := rfl
@[simp] theorem State.pend_src1 (w : Word) : (s.pend w).src1 = s.src1 := rfl
@[simp] theorem State.pend_dst0 (w : Word) : (s.pend w).dst0 = s.dst0 := rfl
@[simp] theorem State.pend_dst1 (w : Word) : (s.pend w).dst1 = s.dst1 := rfl
@[simp] theorem State.pend_len (w : Word) : (s.pend w).len = s.len := rfl
@[simp] theorem State.pend_cinit (w : Word) : (s.pend w).cinit = s.cinit := rfl
@[simp] theorem State.pend_cfg (w : Word) : (s.pend w).cfg = s.cfg := rfl
@[simp] theorem State.pend_threshLo (w : Word) : (s.pend w).threshLo = s.threshLo := rfl
@[simp] theorem State.pend_threshHi (w : Word) : (s.pend w).threshHi = s.threshHi := rfl
@[simp] theorem State.pend_det (w : Word) : (s.pend w).det = s.det := rfl
@[simp] theorem State.pend_detRes (w : Word) : (s.pend w).detRes = s.detRes := rfl
@[simp] theorem State.pend_corr (w : Word) : (s.pend w).corr = s.corr := rfl
@[simp] theorem State.pend_corrPos (w : Word) : (s.pend w).corrPos = s.corrPos := rfl
@[simp] theorem State.pend_sssRes (w : Word) : (s.pend w).sssRes = s.sssRes := rfl
@[simp] theorem State.pend_sssCorr (w : Word) : (s.pend w).sssCorr = s.sssCorr := rfl
@[simp] theorem State.pend_errInfo (w : Word) : (s.pend w).errInfo = s.errInfo := rfl
@[simp] theorem State.pend_errCmd (w : Word) : (s.pend w).errCmd = s.errCmd := rfl
@[simp] theorem State.pend_snap (w : Word) : (s.pend w).snap = s.takeSnapshot w := rfl
@[simp] theorem State.pend_mem (w : Word) : (s.pend w).mem = s.mem := rfl
@[simp] theorem State.pend_script (w : Word) : (s.pend w).script = s.script := rfl
@[simp] theorem State.pend_regRd (w : Word) : (s.pend w).regRd = s.regRd := rfl
@[simp] theorem State.pend_dmemRd (w : Word) : (s.pend w).dmemRd = s.dmemRd := rfl
@[simp] theorem State.pend_raced (w : Word) : (s.pend w).raced = false := rfl
@[simp] theorem State.pend_freeCtr (w : Word) : (s.pend w).freeCtr = s.freeCtr := rfl

/-! ### latchSweep -/

@[simp] theorem latchSweep_params (r : Sweep) : (latchSweep s r).params = s.params := rfl
@[simp] theorem latchSweep_ctrl (r : Sweep) : (latchSweep s r).ctrl = s.ctrl := rfl
@[simp] theorem latchSweep_status (r : Sweep) : (latchSweep s r).status = s.status := rfl
@[simp] theorem latchSweep_src0 (r : Sweep) : (latchSweep s r).src0 = s.src0 := rfl
@[simp] theorem latchSweep_src1 (r : Sweep) : (latchSweep s r).src1 = s.src1 := rfl
@[simp] theorem latchSweep_dst0 (r : Sweep) : (latchSweep s r).dst0 = s.dst0 := rfl
@[simp] theorem latchSweep_dst1 (r : Sweep) : (latchSweep s r).dst1 = s.dst1 := rfl
@[simp] theorem latchSweep_len (r : Sweep) : (latchSweep s r).len = s.len := rfl
@[simp] theorem latchSweep_cinit (r : Sweep) : (latchSweep s r).cinit = s.cinit := rfl
@[simp] theorem latchSweep_cfg (r : Sweep) : (latchSweep s r).cfg = s.cfg := rfl
@[simp] theorem latchSweep_threshLo (r : Sweep) : (latchSweep s r).threshLo = s.threshLo := rfl
@[simp] theorem latchSweep_threshHi (r : Sweep) : (latchSweep s r).threshHi = s.threshHi := rfl
@[simp] theorem latchSweep_det (r : Sweep) : (latchSweep s r).det = s.det := rfl
@[simp] theorem latchSweep_detRes (r : Sweep) : (latchSweep s r).detRes = s.detRes := rfl
@[simp] theorem latchSweep_corr (r : Sweep) : (latchSweep s r).corr = BitVec.ofNat 64 r.m := rfl
@[simp] theorem latchSweep_corrPos (r : Sweep) : (latchSweep s r).corrPos = ⟨BitVec.ofNat 2 r.h, BitVec.ofNat 12 r.s, r.swept⟩ := rfl
@[simp] theorem latchSweep_sssRes (r : Sweep) : (latchSweep s r).sssRes = s.sssRes := rfl
@[simp] theorem latchSweep_sssCorr (r : Sweep) : (latchSweep s r).sssCorr = s.sssCorr := rfl
@[simp] theorem latchSweep_errInfo (r : Sweep) : (latchSweep s r).errInfo = s.errInfo := rfl
@[simp] theorem latchSweep_errCmd (r : Sweep) : (latchSweep s r).errCmd = s.errCmd := rfl
@[simp] theorem latchSweep_snap (r : Sweep) : (latchSweep s r).snap = s.snap := rfl
@[simp] theorem latchSweep_mem (r : Sweep) : (latchSweep s r).mem = s.mem := rfl
@[simp] theorem latchSweep_script (r : Sweep) : (latchSweep s r).script = s.script := rfl
@[simp] theorem latchSweep_regRd (r : Sweep) : (latchSweep s r).regRd = s.regRd := rfl
@[simp] theorem latchSweep_dmemRd (r : Sweep) : (latchSweep s r).dmemRd = s.dmemRd := rfl
@[simp] theorem latchSweep_raced (r : Sweep) : (latchSweep s r).raced = s.raced := rfl
@[simp] theorem latchSweep_freeCtr (r : Sweep) : (latchSweep s r).freeCtr = s.freeCtr := rfl

end Sys2Proof.Machine
end

