-- ==== Sys2Proof/Laws/Correlator.lean ====
section
/-!
SUPPORT. The searches find the first maximum (43_correlator.md R214, R222), a metric is bounded (R213), and what the
parts of a detector step change (R216 to R219).
-/

namespace Sys2Proof.Machine

/-! ### The metric's bound -/

theorem sum_natAbs_le (l : List Int) (b : Nat) (h : ∀ x ∈ l, x.natAbs ≤ b) : l.sum.natAbs ≤ l.length * b := by
  induction l with
  | nil => simp
  | cons x l ih =>
    have h1 := h x (List.mem_cons_self ..)
    have h2 := ih fun y hy => h y (List.mem_cons_of_mem _ hy)
    have h3 := Int.natAbs_add_le x l.sum
    simp only [List.sum_cons, List.length_cons, Nat.add_mul, Nat.one_mul]
    omega

theorem toInt_natAbs_le (x : BitVec 16) : x.toInt.natAbs ≤ 32768 := by
  have h1 := BitVec.toInt_lt (x := x)
  have h2 := BitVec.le_toInt (x := x)
  norm_num at h1 h2
  omega

theorem zipWith_mem {α β γ : Type} (f : α → β → γ) {l : List α} {m : List β} {c : γ} (h : c ∈ List.zipWith f l m) :
    ∃ a ∈ l, ∃ b ∈ m, c = f a b := by
  induction l generalizing m with
  | nil => simp at h
  | cons a l ih =>
    cases m with
    | nil => simp at h
    | cons b m =>
      simp only [List.zipWith_cons_cons, List.mem_cons] at h
      rcases h with rfl | h
      · exact ⟨a, by simp, b, by simp, rfl⟩
      · obtain ⟨a', ha, b', hb, rfl⟩ := ih h
        exact ⟨a', by simp [ha], b', by simp [hb], rfl⟩

theorem bipolar_sum_le (ref : List Int) (y : List Sample) (part : Sample → BitVec 16) (hlen : ref.length ≤ 127)
    (href : ∀ d ∈ ref, d = 1 ∨ d = -1) :
    (List.zipWith (fun r x => r * (part x).toInt) ref y).sum.natAbs ≤ 4161536 := by
  have h := sum_natAbs_le (List.zipWith (fun r x => r * (part x).toInt) ref y) 32768 fun c hc => by
    obtain ⟨a, ha, b, _, rfl⟩ := zipWith_mem _ hc
    have := toInt_natAbs_le (part b)
    rcases href a ha with rfl | rfl <;> simpa using this
  have hl : (List.zipWith (fun r x => r * (part x).toInt) ref y).length ≤ 127 := by
    simp only [List.length_zipWith]
    omega
  have := Nat.mul_le_mul_right 32768 hl
  omega

/-! ### The PSS sweep -/

/-- The candidates of a sweep in scan order (R214): `h` outer, `s` inner, both ascending. -/
def sweepCandidates (nSc : Nat) : List (Nat × Nat) :=
  (List.range 3).flatMap fun h => (List.range (nSc - 126)).map fun s => (h, s)

/-- The metric of one candidate. -/
def sweepMetric (p : Params) (y : List Sample) (c : Nat × Nat) : Nat := metric (corr (pss p c.1) y c.2)

theorem sweep_eq_foldl (p : Params) (y : List Sample) (nSc : Nat) :
    sweep p y nSc =
      (sweepCandidates nSc).foldl (fun b c => b.consider c.1 c.2 (sweepMetric p y c)) ⟨false, 0, 0, 0⟩ := by
  simp only [sweep, sweepCandidates, List.foldl_flatMap, List.foldl_map, sweepShifts, sweepMetric]

theorem mem_sweepCandidates (nSc : Nat) (c : Nat × Nat) : c ∈ sweepCandidates nSc ↔ c.1 < 3 ∧ c.2 < nSc - 126 := by
  obtain ⟨h, s⟩ := c
  simp only [sweepCandidates, List.mem_flatMap, List.mem_range, List.mem_map, Prod.mk.injEq]
  constructor
  · rintro ⟨_, h1, _, h2, rfl, rfl⟩
    exact ⟨h1, h2⟩
  · rintro ⟨h1, h2⟩
    exact ⟨h, h1, s, h2, rfl, rfl⟩

/-- Once there is a candidate, the fold keeps the first maximum: everything before it is strictly below. -/
theorem consider_foldl_swept (f : Nat × Nat → Nat) (l : List (Nat × Nat)) (b : Sweep) (hb : b.swept = true) :
    ∃ r, l.foldl (fun b c => b.consider c.1 c.2 (f c)) b = r ∧ r.swept = true ∧ b.m ≤ r.m ∧
      (r = b ∧ (∀ c ∈ l, f c ≤ b.m) ∨
        ∃ l₁ l₂, l = l₁ ++ (r.h, r.s) :: l₂ ∧ r.m = f (r.h, r.s) ∧ b.m < r.m ∧ (∀ c ∈ l₁, f c < r.m) ∧
          ∀ c ∈ l₂, f c ≤ r.m) := by
  induction l generalizing b with
  | nil => exact ⟨b, rfl, hb, Nat.le_refl _, .inl ⟨rfl, by simp⟩⟩
  | cons c l ih =>
    simp only [List.foldl_cons]
    by_cases hlt : b.m < f c
    · have hc : b.consider c.1 c.2 (f c) = ⟨true, c.1, c.2, f c⟩ := by simp [Sweep.consider, hlt]
      rw [hc]
      obtain ⟨r, hr, hsw, hle, h⟩ := ih ⟨true, c.1, c.2, f c⟩ rfl
      refine ⟨r, hr, hsw, by simp only at hle; omega, .inr ?_⟩
      rcases h with ⟨h1, h2⟩ | ⟨l₁, l₂, h1, h2, h3, h4, h5⟩
      · subst h1
        exact ⟨[], l, rfl, rfl, hlt, by simp, h2⟩
      · refine ⟨c :: l₁, l₂, by simp [h1], h2, by simp only at h3; omega, ?_, h5⟩
        intro c' hc'
        rcases List.mem_cons.1 hc' with rfl | hc'
        · simpa using h3
        · exact h4 c' hc'
    · have hc : b.consider c.1 c.2 (f c) = b := by simp [Sweep.consider, hb, hlt]
      rw [hc]
      obtain ⟨r, hr, hsw, hle, h⟩ := ih b hb
      refine ⟨r, hr, hsw, hle, ?_⟩
      rcases h with ⟨h1, h2⟩ | ⟨l₁, l₂, h1, h2, h3, h4, h5⟩
      · exact .inl ⟨h1, fun c' hc' => by
          rcases List.mem_cons.1 hc' with rfl | hc'
          · omega
          · exact h2 c' hc'⟩
      · refine .inr ⟨c :: l₁, l₂, by simp [h1], h2, h3, ?_, h5⟩
        intro c' hc'
        rcases List.mem_cons.1 hc' with rfl | hc'
        · omega
        · exact h4 c' hc'

/-- A sweep with at least one candidate returns the first maximum in scan order (R214). -/
theorem sweep_first_max (p : Params) (y : List Sample) (nSc : Nat) (h : 127 ≤ nSc) :
    ∃ r, sweep p y nSc = r ∧ r.swept = true ∧ r.m = sweepMetric p y (r.h, r.s) ∧
      ∃ l₁ l₂, sweepCandidates nSc = l₁ ++ (r.h, r.s) :: l₂ ∧
        (∀ c ∈ l₁, sweepMetric p y c < r.m) ∧ ∀ c ∈ l₂, sweepMetric p y c ≤ r.m := by
  rw [sweep_eq_foldl]
  have hne : (0, 0) ∈ sweepCandidates nSc := (mem_sweepCandidates nSc (0, 0)).2 ⟨by simp, by simp only; omega⟩
  cases hl : sweepCandidates nSc with
  | nil => simp [hl] at hne
  | cons c l =>
    have hc : (⟨false, 0, 0, 0⟩ : Sweep).consider c.1 c.2 (sweepMetric p y c) = ⟨true, c.1, c.2, sweepMetric p y c⟩ :=
      rfl
    simp only [List.foldl_cons, hc]
    obtain ⟨r, hr, hsw, hle, h⟩ := consider_foldl_swept (sweepMetric p y) l ⟨true, c.1, c.2, sweepMetric p y c⟩ rfl
    refine ⟨r, hr, hsw, ?_⟩
    rcases h with ⟨h1, h2⟩ | ⟨l₁, l₂, h1, h2, h3, h4, h5⟩
    · subst h1
      exact ⟨rfl, [], l, rfl, by simp, h2⟩
    · refine ⟨h2, c :: l₁, l₂, by simp [h1], ?_, h5⟩
      intro c' hc'
      rcases List.mem_cons.1 hc' with rfl | hc'
      · simpa using h3
      · exact h4 c' hc'

/-- The scan order is the lexicographic one. -/
theorem sweepCandidates_pairwise (nSc : Nat) :
    (sweepCandidates nSc).Pairwise fun a b => a.1 < b.1 ∨ (a.1 = b.1 ∧ a.2 < b.2) := by
  simp only [sweepCandidates, List.pairwise_flatMap, List.pairwise_map]
  constructor
  · intro a _
    exact List.pairwise_lt_range.imp (fun h => .inr ⟨trivial, h⟩)
  · refine List.pairwise_lt_range.imp (fun h => ?_)
    intro x hx y hy
    rw [List.mem_map] at hx hy
    obtain ⟨_, _, rfl⟩ := hx
    obtain ⟨_, _, rfl⟩ := hy
    exact .inl h

/-- A symbol narrower than the PSS gives an empty sweep (R214). -/
theorem sweep_empty (p : Params) (y : List Sample) (nSc : Nat) (h : nSc < 127) :
    sweep p y nSc = ⟨false, 0, 0, 0⟩ := by
  have h0 : nSc - 126 = 0 := by omega
  rw [sweep_eq_foldl, sweepCandidates, h0]
  rfl

/-! ### The SSS search -/

/-- The metric of one `nid1` hypothesis (R222). -/
def sssMetric (p : Params) (y : List Sample) (nid2 a : Nat) : Nat := metric (corr (sss p a nid2) y 0)

/-- The fold of a search keeps the first maximum. -/
theorem argmax_foldl (f : Nat → Nat) (n : Nat) (hn : 0 < n) :
    ∃ a, (List.range n).foldl (fun best a => if best.2 < (f a : Int) then (a, (f a : Int)) else best) ((0 : Nat), (-1 : Int))
        = (a, (f a : Int)) ∧ a < n ∧ (∀ b < a, f b < f a) ∧ ∀ b < n, f b ≤ f a := by
  induction n with
  | zero => omega
  | succ n ih =>
    rw [List.range_succ, List.foldl_append]
    by_cases h0 : n = 0
    · subst h0
      refine ⟨0, ?_, by omega, by omega, ?_⟩
      · simp only [List.range_zero, List.foldl_nil, List.foldl_cons]
        rw [if_pos (by omega)]
      · intro b hb
        have : b = 0 := by omega
        subst this
        exact Nat.le_refl _
    · obtain ⟨a, ha, h1, h2, h3⟩ := ih (by omega)
      rw [ha]
      simp only [List.foldl_cons, List.foldl_nil]
      by_cases hlt : (f a : Int) < (f n : Int)
      · rw [if_pos hlt]
        refine ⟨n, rfl, by omega, fun b hb => ?_, fun b hb => ?_⟩
        · have := h3 b hb
          omega
        · by_cases hbn : b = n
          · subst hbn; exact Nat.le_refl _
          · have := h3 b (by omega)
            omega
      · rw [if_neg hlt]
        refine ⟨a, rfl, by omega, h2, fun b hb => ?_⟩
        by_cases hbn : b = n
        · subst hbn; omega
        · exact h3 b (by omega)

/-- The search returns the first maximum in ascending `nid1` order, with its metric (R222). -/
theorem sssSearch_first_max (p : Params) (y : List Sample) (nid2 : Nat) :
    ∃ a, sssSearch p y nid2 = (a, (sssMetric p y nid2 a : Int)) ∧ a < 336 ∧
      (∀ b < a, sssMetric p y nid2 b < sssMetric p y nid2 a) ∧
      ∀ b < 336, sssMetric p y nid2 b ≤ sssMetric p y nid2 a :=
  argmax_foldl (sssMetric p y nid2) 336 (by omega)

/-! ### The state machine -/

@[simp] theorem unspecifiedBuf_length (n : Nat) : (unspecifiedBuf n).length = 960 := by simp [unspecifiedBuf]

theorem setColumn_length (buf : List Sample) (c : Nat) (col : List Sample) (hb : buf.length = 960)
    (hc : c < 4) (hcol : col.length = 240) : (setColumn buf c col).length = 960 := by
  simp only [setColumn, List.length_append, List.length_take, List.length_drop, hb, hcol]
  omega

/-- All that a trigger decision can do (R216, R217). -/
theorem triggerStep_cases (s : State) (r : Sweep) :
    (r.hits s.snap.thresh = false ∧ triggerStep s r = s) ∨
      (r.hits s.snap.thresh = true ∧ r.fits s.snap.nSc = false ∧ triggerStep s r = s.setPeakOob) ∨
      (r.hits s.snap.thresh = true ∧ r.fits s.snap.nSc = true ∧
        triggerStep s r = { s with det := s.det.trigger r s.snap.cfg.lMax.toNat }) := by
  unfold triggerStep
  cases r.hits s.snap.thresh <;> cases r.fits s.snap.nSc <;> simp

theorem Srem.pred_ne_searching (k : Fin 4) (hk : k ≠ 0) : Srem.pred k ≠ .searching := by
  revert k
  decide

/-- All that collection and emission can do (R218, R219). -/
theorem collectAndEmit_cases (s : State) (y : List Sample) :
    (s.det.srem = .searching ∧ collectAndEmit s y = s) ∨
      (∃ k : Fin 4, s.det.srem = .collecting k ∧ k ≠ 0 ∧
        collectAndEmit s y = { s with det := s.det.collect y }) ∨
      (s.det.srem = .collecting 0 ∧ collectAndEmit s y = emit { s with det := s.det.collect y }) := by
  cases h : s.det.srem with
  | searching =>
    refine .inl ⟨rfl, ?_⟩
    simp [collectAndEmit, Detector.collect, h]
  | collecting k =>
    by_cases hk : k = 0
    · subst hk
      refine .inr (.inr ⟨rfl, ?_⟩)
      simp [collectAndEmit, Detector.collect, h, Srem.pred]
    · refine .inr (.inl ⟨k, rfl, hk, ?_⟩)
      have : Srem.pred k ≠ .searching := Srem.pred_ne_searching k hk
      simp [collectAndEmit, Detector.collect, h, this]

end Sys2Proof.Machine
end

