-- ==== Sys2Proof/Laws/Memory.lean ====
section
/-!
SUPPORT. What reading DMEM answers after a write (20_memory.md R61, R64, R65), and that every memory operation keeps the
canonical form.
-/

namespace Sys2Proof.Machine

/-! ### One byte -/

@[simp] theorem Memory.byte?_nil (a : Nat) : Memory.byte? [] a = none := rfl

theorem Memory.byte?_cons (c : Host.Cell) (m : Memory) (a : Nat) :
    Memory.byte? (c :: m) a = if c.1 = a then some c.2 else m.byte? a := by
  cases c; rfl

theorem Memory.byte?_append (m₁ m₂ : Memory) (a : Nat) :
    Memory.byte? (m₁ ++ m₂) a = (m₁.byte? a).or (m₂.byte? a) := by
  induction m₁ with
  | nil => simp
  | cons c m ih =>
    simp only [List.cons_append, Memory.byte?_cons, ih]
    split <;> simp

theorem Memory.byte?_filter (m : Memory) (p : Nat → Bool) (a : Nat) :
    Memory.byte? (m.filter fun c => p c.1) a = if p a then m.byte? a else none := by
  induction m with
  | nil => simp
  | cons c m ih =>
    rw [List.filter_cons]
    by_cases h : c.1 = a
    · subst h
      by_cases hp : p c.1 <;> simp [hp, Memory.byte?_cons, ih]
    · by_cases hp : p c.1 <;> simp [hp, Memory.byte?_cons, ih, h]

theorem byte?_cellsFrom (a : Nat) (bs : List Byte) (x : Nat) :
    Memory.byte? (cellsFrom a bs) x = if a ≤ x then bs[x - a]? else none := by
  induction bs generalizing a with
  | nil => simp [cellsFrom]
  | cons b bs ih =>
    simp only [cellsFrom, Memory.byte?_cons, ih]
    by_cases h : a = x
    · subst h; simp
    · rw [if_neg h]
      by_cases h' : a ≤ x
      · have h1 : a + 1 ≤ x := by omega
        have h2 : x - a = (x - (a + 1)) + 1 := by omega
        simp [h', h1, h2]
      · rw [if_neg h', if_neg (by omega)]

/-- Reading a byte after a write of consecutive bytes. -/
theorem Memory.byte?_writeBytes (m : Memory) (a : Nat) (bs : List Byte) (x : Nat) :
    (m.writeBytes a bs).byte? x = if a ≤ x ∧ x < a + bs.length then bs[x - a]? else m.byte? x := by
  have h1 := Memory.byte?_filter m (fun n => decide (n < a)) x
  have h2 := Memory.byte?_filter m (fun n => decide (a + bs.length ≤ n)) x
  simp only [decide_eq_true_eq] at h1 h2
  simp only [Memory.writeBytes, Memory.byte?_append, byte?_cellsFrom, h1, h2]
  by_cases hlo : x < a
  · have : ¬ a ≤ x := by omega
    have h3 : ¬ a + bs.length ≤ x := by omega
    simp [hlo, this, h3]
  · have hle : a ≤ x := by omega
    by_cases hhi : x < a + bs.length
    · have hlt : x - a < bs.length := by omega
      simp [hlo, hle, hhi, hlt]
    · have h3 : a + bs.length ≤ x := by omega
      have h4 : bs.length ≤ x - a := by omega
      simp [hlo, hle, hhi, h3, h4]

/-! ### The canonical form -/

theorem mem_cellsFrom {a : Nat} {bs : List Byte} {c : Host.Cell} (h : c ∈ cellsFrom a bs) :
    a ≤ c.1 ∧ c.1 < a + bs.length := by
  induction bs generalizing a with
  | nil => simp [cellsFrom] at h
  | cons b bs ih =>
    simp only [cellsFrom, List.mem_cons] at h
    rcases h with rfl | h
    · simp
    · have := ih h
      simp only [List.length_cons]
      omega

theorem wf_cellsFrom (a : Nat) (bs : List Byte) : Memory.wf (cellsFrom a bs) := by
  induction bs generalizing a with
  | nil => simp [cellsFrom]
  | cons b bs ih =>
    simp only [Memory.wf, cellsFrom, List.pairwise_cons]
    exact ⟨fun c hc => by have := mem_cellsFrom hc; omega, ih (a + 1)⟩

/-- Writing keeps the canonical form. -/
theorem Memory.wf_writeBytes {m : Memory} (h : m.wf) (a : Nat) (bs : List Byte) : (m.writeBytes a bs).wf := by
  simp only [Memory.wf, Memory.writeBytes, List.pairwise_append, List.mem_append, List.mem_filter, decide_eq_true_eq]
  refine ⟨⟨h.filter _, wf_cellsFrom a bs, ?_⟩, h.filter _, ?_⟩
  · intro x hx y hy
    have := mem_cellsFrom hy
    omega
  · rintro x (hx | hx) y hy
    · omega
    · have := mem_cellsFrom hx
      omega

theorem Memory.wf_writeWords {m : Memory} (h : m.wf) (a : Nat) (ws : List Word) : (m.writeWords a ws).wf :=
  Memory.wf_writeBytes h a _

/-- A write lists no address but the written ones. -/
theorem Memory.mem_writeBytes {m : Memory} {a : Nat} {bs : List Byte} {c : Host.Cell} (h : c ∈ m.writeBytes a bs) :
    c ∈ m ∨ (a ≤ c.1 ∧ c.1 < a + bs.length) := by
  simp only [Memory.writeBytes, List.mem_append, List.mem_filter] at h
  rcases h with (h | h) | h
  · exact .inl h.1
  · exact .inr (mem_cellsFrom h)
  · exact .inl h.1

/-! ### Words -/

@[simp] theorem wordBytes_length (v : Word) : (wordBytes v).length = 4 := rfl

@[simp] theorem flatMap_wordBytes_length (ws : List Word) : (ws.flatMap wordBytes).length = 4 * ws.length := by
  induction ws with
  | nil => rfl
  | cons w ws ih => simp [ih]; omega

theorem flatMap_wordBytes_getElem? (ws : List Word) (j r : Nat) (hr : r < 4) :
    (ws.flatMap wordBytes)[4 * j + r]? = ws[j]?.bind fun w => (wordBytes w)[r]? := by
  induction ws generalizing j with
  | nil => simp
  | cons w ws ih =>
    cases j with
    | zero =>
      rw [List.flatMap_cons, List.getElem?_append_left (by simp; omega)]
      simp
    | succ j =>
      rw [List.flatMap_cons, List.getElem?_append_right (by simp; omega)]
      have : 4 * (j + 1) + r - (wordBytes w).length = 4 * j + r := by simp; omega
      rw [this, ih]
      simp

/-- Putting a word's bytes together gives the word (R61). -/
theorem wordBytes_join (v : Word) :
    v.extractLsb' 24 8 ++ v.extractLsb' 16 8 ++ v.extractLsb' 8 8 ++ v.extractLsb' 0 8 = v := by
  ext i hi
  simp only [BitVec.getElem_append, BitVec.getElem_extractLsb']
  split
  · rw [BitVec.getLsbD_eq_getElem (by omega)]; congr 1; omega
  split
  · rw [BitVec.getLsbD_eq_getElem (by omega)]; congr 1; omega
  split
  · rw [BitVec.getLsbD_eq_getElem (by omega)]; congr 1; omega
  · rw [BitVec.getLsbD_eq_getElem (by omega)]; congr 1; omega

/-! ### Reading DMEM after a write -/

/-- Reading a byte after consecutive words were written. -/
theorem State.byteAt_writeWords (s : State) (a : Nat) (ws : List Word) (x : Nat) :
    (s.writeWords a ws).byteAt x =
      if a ≤ x ∧ x < a + 4 * ws.length then ((ws.flatMap wordBytes)[x - a]?).getD 0#8 else s.byteAt x := by
  simp only [State.byteAt, State.writeWords, Memory.writeWords, Memory.byte?_writeBytes, flatMap_wordBytes_length]
  split
  · next h =>
    have : x - a < (ws.flatMap wordBytes).length := by simp; omega
    rw [List.getElem?_eq_getElem this]
    rfl
  · rfl

/-- Bytes outside the written words read as before. -/
theorem State.byteAt_writeWords_outside (s : State) (a : Nat) (ws : List Word) (x : Nat)
    (h : x < a ∨ a + 4 * ws.length ≤ x) : (s.writeWords a ws).byteAt x = s.byteAt x := by
  rw [State.byteAt_writeWords, if_neg (by omega)]

/-- Reading back a written word (R61). -/
theorem State.memRead_writeWords (s : State) (a : Nat) (ws : List Word) (j : Nat) (h : j < ws.length) :
    (s.writeWords a ws).memRead (a + 4 * j) = ws[j] := by
  have hb : ∀ r, (hr : r < 4) → (s.writeWords a ws).byteAt (a + 4 * j + r) = (wordBytes ws[j])[r] := by
    intro r hr
    rw [State.byteAt_writeWords, if_pos (by omega)]
    have : a + 4 * j + r - a = 4 * j + r := by omega
    rw [this, flatMap_wordBytes_getElem? ws j r hr, List.getElem?_eq_getElem h]
    simp only [Option.bind_some]
    rw [List.getElem?_eq_getElem (by simpa using hr)]
    rfl
  have h0 := hb 0 (by omega)
  have h1 := hb 1 (by omega)
  have h2 := hb 2 (by omega)
  have h3 := hb 3 (by omega)
  simp only [Nat.add_zero] at h0
  simp only [State.memRead, h0, h1, h2, h3]
  exact wordBytes_join ws[j]

/-- A word outside the written words reads as before. -/
theorem State.memRead_writeWords_outside (s : State) (a : Nat) (ws : List Word) (x : Nat)
    (h : x + 4 ≤ a ∨ a + 4 * ws.length ≤ x) : (s.writeWords a ws).memRead x = s.memRead x := by
  simp only [State.memRead]
  rw [State.byteAt_writeWords_outside _ _ _ _ (by omega), State.byteAt_writeWords_outside _ _ _ _ (by omega),
    State.byteAt_writeWords_outside _ _ _ _ (by omega), State.byteAt_writeWords_outside _ _ _ _ (by omega)]

/-- Two states with the same DMEM read the same words. -/
theorem State.memRead_congr {s t : State} (h : s.mem = t.mem) (a : Nat) : s.memRead a = t.memRead a := by
  simp [State.memRead, State.byteAt, h]

/-! ### Samples -/

@[simp] theorem Sample.word_ofWord (w : Word) : (Sample.ofWord w).word = w := by
  simp only [Sample.word, Sample.ofWord]
  ext i hi
  simp only [BitVec.getElem_append, BitVec.getElem_extractLsb']
  split
  · simp [BitVec.getLsbD_eq_getElem hi]
  · rw [BitVec.getLsbD_eq_getElem (by omega)]; congr 1; omega

@[simp] theorem Sample.ofWord_word (x : Sample) : Sample.ofWord x.word = x := by
  cases x with
  | mk i q =>
    simp only [Sample.word, Sample.ofWord, Sample.mk.injEq]
    constructor
    · ext k hk
      rw [BitVec.getElem_extractLsb']
      refine (BitVec.getLsbD_append (x := q) (y := i)).trans ?_
      rw [if_pos (by omega), Nat.zero_add, BitVec.getLsbD_eq_getElem hk]
    · ext k hk
      rw [BitVec.getElem_extractLsb']
      refine (BitVec.getLsbD_append (x := q) (y := i)).trans ?_
      rw [if_neg (by omega), Nat.add_sub_cancel_left, BitVec.getLsbD_eq_getElem hk]

@[simp] theorem State.readSamples_length (s : State) (b n : Nat) : (s.readSamples b n).length = n := by
  simp [State.readSamples]

theorem State.readSamples_getElem (s : State) (b n i : Nat) (h : i < (s.readSamples b n).length) :
    (s.readSamples b n)[i] = Sample.ofWord (s.memRead (b + 4 * i)) := by
  simp [State.readSamples]

/-- Reading back a written sample's word (R64). -/
theorem State.memRead_writeSamples (s : State) (a : Nat) (xs : List Sample) (j : Nat) (h : j < xs.length) :
    (s.writeSamples a xs).memRead (a + 4 * j) = xs[j].word := by
  have h' : j < (xs.map Sample.word).length := by simpa using h
  rw [State.writeSamples, State.memRead_writeWords s a _ j h']
  simp

theorem State.byteAt_writeSamples_outside (s : State) (a : Nat) (xs : List Sample) (x : Nat)
    (h : x < a ∨ a + 4 * xs.length ≤ x) : (s.writeSamples a xs).byteAt x = s.byteAt x :=
  State.byteAt_writeWords_outside s a _ x (by simpa using h)

theorem State.memRead_writeSamples_outside (s : State) (a : Nat) (xs : List Sample) (x : Nat)
    (h : x + 4 ≤ a ∨ a + 4 * xs.length ≤ x) : (s.writeSamples a xs).memRead x = s.memRead x :=
  State.memRead_writeWords_outside s a _ x (by simpa using h)

/-- Writing samples and reading them back (R64). -/
theorem State.readSamples_writeSamples (s : State) (a : Nat) (xs : List Sample) :
    (s.writeSamples a xs).readSamples a xs.length = xs := by
  apply List.ext_getElem
  · simp
  · intro i h1 h2
    rw [State.readSamples_getElem, State.memRead_writeSamples s a xs i h2]
    simp

/-! ### Bit vectors -/

@[simp] theorem State.readBits_length (s : State) (b n : Nat) : (s.readBits b n).length = n := by
  simp [State.readBits]

theorem State.readBits_getElem (s : State) (b n i : Nat) (h : i < (s.readBits b n).length) :
    (s.readBits b n)[i] = (s.memRead (b + 4 * (i / 32))).getLsbD (i % 32) := by
  simp [State.readBits]

@[simp] theorem packBits_length (bs : List Bool) : (packBits bs).length = bitWords bs.length := by
  simp [packBits]

theorem natOfBits_lt (bs : List Bool) : natOfBits bs < 2 ^ bs.length := by
  induction bs with
  | nil => simp [natOfBits]
  | cons b bs ih =>
    have : b.toNat ≤ 1 := by cases b <;> simp
    simp only [natOfBits, List.length_cons, Nat.pow_succ]
    omega

theorem natOfBits_testBit (bs : List Bool) (j : Nat) : (natOfBits bs).testBit j = bs.getD j false := by
  induction bs generalizing j with
  | nil => simp [natOfBits]
  | cons b bs ih =>
    have hb : b.toNat + 2 * natOfBits bs = 2 * natOfBits bs + b.toNat := by omega
    cases j with
    | zero => cases b <;> simp [natOfBits]
    | succ j =>
      have h2 : (b.toNat + 2 * natOfBits bs) / 2 = natOfBits bs := by
        cases b <;> simp
        omega
      simp only [natOfBits, Nat.testBit_succ, h2, ih, List.getD_cons_succ]

/-- A bit of a packed word is the bit of the vector, and 0 beyond its end (R65). -/
theorem packBits_getLsbD (bs : List Bool) (w j : Nat) (hw : w < (packBits bs).length) (hj : j < 32) :
    (packBits bs)[w].getLsbD j = bs.getD (32 * w + j) false := by
  simp only [packBits, List.getElem_map, List.getElem_range, BitVec.getLsbD_ofNat, hj, decide_true, Bool.true_and,
    natOfBits_testBit]
  simp only [List.getD_eq_getElem?_getD, List.getElem?_take, List.getElem?_drop, hj, if_true]

/-- Reading back a bit of a written vector, and the zero tail of its last word (R65). -/
theorem State.memRead_writeBits (s : State) (a : Nat) (bs : List Bool) (i : Nat) (h : i < 32 * bitWords bs.length) :
    ((s.writeBits a bs).memRead (a + 4 * (i / 32))).getLsbD (i % 32) = bs.getD i false := by
  have hw : i / 32 < (packBits bs).length := by simp; omega
  rw [State.writeBits, State.memRead_writeWords s a _ _ hw, packBits_getLsbD bs _ _ hw (Nat.mod_lt _ (by omega))]
  congr 1
  omega

theorem State.byteAt_writeBits_outside (s : State) (a : Nat) (bs : List Bool) (x : Nat)
    (h : x < a ∨ a + 4 * bitWords bs.length ≤ x) : (s.writeBits a bs).byteAt x = s.byteAt x :=
  State.byteAt_writeWords_outside s a _ x (by simpa using h)

end Sys2Proof.Machine
end

