-- ==== Sys2Proof/Laws/Mapper.lean ====
section
/-!
SUPPORT. Placing samples in a grid and reading them back (42_mapper.md R171 to R174), and the closed forms of the index
tables (R173).
-/

namespace Sys2Proof.Machine

/-! ### Placing -/

@[simp] theorem zeroGrid_length : zeroGrid.length = 960 := List.length_replicate

@[simp] theorem place_nil (g : Grid) (xs : List Sample) : place g [] xs = g := rfl

@[simp] theorem place_cons (g : Grid) (p : Nat × Nat) (idx : List (Nat × Nat)) (x : Sample) (xs : List Sample) :
    place g (p :: idx) (x :: xs) = place (g.set (gridIndex p) x) idx xs := rfl

@[simp] theorem place_length (g : Grid) (idx : List (Nat × Nat)) (xs : List Sample) :
    (place g idx xs).length = g.length := by
  induction idx generalizing g xs with
  | nil => rfl
  | cons p idx ih =>
    cases xs with
    | nil => rfl
    | cons x xs => simp [ih]

theorem gridAt_set (g : Grid) (p q : Nat × Nat) (x : Sample) (h : gridIndex p < g.length) :
    gridAt (g.set (gridIndex p) x) q = if gridIndex p = gridIndex q then x else gridAt g q := by
  simp only [gridAt, List.getD_eq_getElem?_getD, List.getElem?_set]
  by_cases hpq : gridIndex p = gridIndex q
  · simp [hpq, hpq ▸ h]
  · simp [hpq]

/-- A position that no index names keeps its sample. -/
theorem gridAt_place_outside (g : Grid) (idx : List (Nat × Nat)) (xs : List Sample) (q : Nat × Nat)
    (h : ∀ p ∈ idx, gridIndex p ≠ gridIndex q) : gridAt (place g idx xs) q = gridAt g q := by
  induction idx generalizing g xs with
  | nil => rfl
  | cons p idx ih =>
    cases xs with
    | nil => rfl
    | cons x xs =>
      rw [place_cons, ih _ _ fun p' hp' => h p' (List.mem_cons_of_mem _ hp')]
      simp only [gridAt, List.getD_eq_getElem?_getD, List.getElem?_set_ne (h p (List.mem_cons_self ..))]

/-- The `i`-th position named holds the `i`-th sample. -/
theorem gridAt_place (g : Grid) (idx : List (Nat × Nat)) (xs : List Sample) (i : Nat) (hi : i < idx.length)
    (hx : i < xs.length) (hnd : (idx.map gridIndex).Nodup) (hlt : ∀ p ∈ idx, gridIndex p < g.length) :
    gridAt (place g idx xs) idx[i] = xs[i] := by
  induction idx generalizing g xs i with
  | nil => simp at hi
  | cons p idx ih =>
    cases xs with
    | nil => simp at hx
    | cons x xs =>
      simp only [List.map_cons, List.nodup_cons, List.mem_map, not_exists, not_and] at hnd
      cases i with
      | zero =>
        simp only [List.getElem_cons_zero, place_cons]
        rw [gridAt_place_outside _ _ _ _ fun p' hp' => hnd.1 p' hp',
          gridAt_set _ _ _ _ (hlt p (List.mem_cons_self ..)), if_pos rfl]
      | succ i =>
        simp only [List.getElem_cons_succ, place_cons]
        exact ih _ _ i (by simpa using hi) (by simpa using hx) hnd.2 fun p' hp' => by
          simpa using hlt p' (List.mem_cons_of_mem _ hp')

theorem gridAt_zeroGrid (q : Nat × Nat) : gridAt zeroGrid q = Sample.zero := by
  simp only [gridAt, zeroGrid, List.getD_eq_getElem?_getD, List.getElem?_replicate]
  split <;> rfl

@[simp] theorem gather_length (g : Grid) (idx : List (Nat × Nat)) : (gather g idx).length = idx.length := by
  simp [gather]

theorem gather_getElem (g : Grid) (idx : List (Nat × Nat)) (i : Nat) (h : i < (gather g idx).length) :
    (gather g idx)[i] = gridAt g (idx[i]'(by simpa using h)) := by
  simp [gather]

/-- Gathering what was placed gives it back. -/
theorem gather_place (g : Grid) (idx : List (Nat × Nat)) (xs : List Sample) (hlen : idx.length = xs.length)
    (hnd : (idx.map gridIndex).Nodup) (hlt : ∀ p ∈ idx, gridIndex p < g.length) :
    gather (place g idx xs) idx = xs := by
  apply List.ext_getElem (by simp [hlen])
  intro i h1 h2
  rw [gather_getElem]
  exact gridAt_place g idx xs i (by simpa using h1) h2 hnd hlt

/-- Within the grid, a position is its index. -/
theorem gridIndex_inj {p q : Nat × Nat} (hp : p.1 < 240) (hq : q.1 < 240) (h : gridIndex p = gridIndex q) : p = q := by
  obtain ⟨k, l⟩ := p
  obtain ⟨k', l'⟩ := q
  simp only [gridIndex] at *
  have : l = l' := by omega
  subst this
  have : k = k' := by omega
  subst this
  rfl

/-! ### Index tables -/

@[simp] theorem syncIdx_length (l : Nat) : (syncIdx l).length = 127 := by simp [syncIdx]

theorem syncIdx_getElem (l i : Nat) (h : i < (syncIdx l).length) : (syncIdx l)[i] = (56 + i, l) := by
  simp [syncIdx]

theorem syncIdx_nodup (l : Nat) : ((syncIdx l).map gridIndex).Nodup := by
  rw [List.nodup_map_iff_inj_on]
  · intro p hp q hq h
    simp only [syncIdx, List.mem_map, List.mem_range] at hp hq
    obtain ⟨n, hn, rfl⟩ := hp
    obtain ⟨m, hm, rfl⟩ := hq
    exact gridIndex_inj (by simp only; omega) (by simp only; omega) h
  · rw [syncIdx, List.nodup_map_iff_inj_on List.nodup_range]
    intro a _ b _ h
    simpa using h

theorem dmrsIdx_closed_0 : dmrsIdx 0 = (List.range 144).map (dmrsPos 0) := by decide +kernel
theorem dmrsIdx_closed_1 : dmrsIdx 1 = (List.range 144).map (dmrsPos 1) := by decide +kernel
theorem dmrsIdx_closed_2 : dmrsIdx 2 = (List.range 144).map (dmrsPos 2) := by decide +kernel
theorem dmrsIdx_closed_3 : dmrsIdx 3 = (List.range 144).map (dmrsPos 3) := by decide +kernel
theorem pbchIdx_closed_0 : pbchIdx 0 = (List.range 432).map (pbchPos 0) := by decide +kernel
theorem pbchIdx_closed_1 : pbchIdx 1 = (List.range 432).map (pbchPos 1) := by decide +kernel
theorem pbchIdx_closed_2 : pbchIdx 2 = (List.range 432).map (pbchPos 2) := by decide +kernel
theorem pbchIdx_closed_3 : pbchIdx 3 = (List.range 432).map (pbchPos 3) := by decide +kernel

/-- The DM-RS table in its closed form (R173). -/
theorem dmrsIdx_closed (nu : Nat) (h : nu < 4) : dmrsIdx nu = (List.range 144).map (dmrsPos nu) := by
  interval_cases nu
  · exact dmrsIdx_closed_0
  · exact dmrsIdx_closed_1
  · exact dmrsIdx_closed_2
  · exact dmrsIdx_closed_3

/-- The PBCH table in its closed form (R173). -/
theorem pbchIdx_closed (nu : Nat) (h : nu < 4) : pbchIdx nu = (List.range 432).map (pbchPos nu) := by
  interval_cases nu
  · exact pbchIdx_closed_0
  · exact pbchIdx_closed_1
  · exact pbchIdx_closed_2
  · exact pbchIdx_closed_3

/-- A position is in `SCAN` (R172). -/
theorem mem_scanSymbol (l : Nat) (p : Nat × Nat) :
    p ∈ scanSymbol l ↔ p.2 = l ∧ p.1 < 240 ∧ ¬(l = 2 ∧ 48 ≤ p.1 ∧ p.1 < 192) := by
  obtain ⟨k, l'⟩ := p
  simp only [scanSymbol, List.mem_map, List.mem_filter, List.mem_range, Bool.not_eq_true', Bool.and_eq_false_iff,
    beq_eq_false_iff_ne, decide_eq_false_iff_not, Prod.mk.injEq]
  constructor
  · rintro ⟨a, ⟨h1, h2⟩, rfl, rfl⟩
    refine ⟨rfl, h1, ?_⟩
    omega
  · rintro ⟨rfl, h1, h2⟩
    refine ⟨k, ⟨h1, ?_⟩, rfl, rfl⟩
    omega

/-- The scan positions (R172): symbols 1 to 3, without the gap of symbol 2. -/
theorem mem_scan (p : Nat × Nat) :
    p ∈ scan ↔ p.1 < 240 ∧ 1 ≤ p.2 ∧ p.2 ≤ 3 ∧ ¬(p.2 = 2 ∧ 48 ≤ p.1 ∧ p.1 < 192) := by
  obtain ⟨k, l⟩ := p
  simp only [scan, List.mem_append, mem_scanSymbol]
  constructor
  · rintro ((⟨rfl, h1, h2⟩ | ⟨rfl, h1, h2⟩) | ⟨rfl, h1, h2⟩)
    · exact ⟨h1, by omega, by omega, by omega⟩
    · exact ⟨h1, by omega, by omega, by simpa using h2⟩
    · exact ⟨h1, by omega, by omega, by omega⟩
  · rintro ⟨h1, h2, h3, h4⟩
    have : l = 1 ∨ l = 2 ∨ l = 3 := by omega
    rcases this with rfl | rfl | rfl
    · exact .inl (.inl ⟨rfl, h1, by omega⟩)
    · exact .inl (.inr ⟨rfl, h1, by simpa using h4⟩)
    · exact .inr ⟨rfl, h1, by omega⟩

theorem mem_dmrsIdx (nu : Nat) (p : Nat × Nat) : p ∈ dmrsIdx nu ↔ p ∈ scan ∧ p.1 % 4 = nu := by
  simp [dmrsIdx]

theorem mem_pbchIdx (nu : Nat) (p : Nat × Nat) : p ∈ pbchIdx nu ↔ p ∈ scan ∧ p.1 % 4 ≠ nu := by
  simp [pbchIdx]

theorem scanSymbol_nodup (l : Nat) : (scanSymbol l).Nodup :=
  (List.nodup_range.filter _).map fun _ _ h => (Prod.mk.inj h).1

theorem scan_nodup : (scan.map gridIndex).Nodup := by
  rw [List.nodup_map_iff_inj_on]
  · intro p hp q hq h
    exact gridIndex_inj ((mem_scan p).1 hp).1 ((mem_scan q).1 hq).1 h
  · simp only [scan, List.nodup_append, scanSymbol_nodup, true_and, List.mem_append, mem_scanSymbol]
    refine ⟨?_, ?_⟩
    · rintro a ⟨h, _⟩ b ⟨h', _⟩ rfl
      omega
    · rintro a (⟨h, _⟩ | ⟨h, _⟩) b ⟨h', _⟩ rfl <;> omega

theorem dmrsIdx_nodup (nu : Nat) : ((dmrsIdx nu).map gridIndex).Nodup :=
  scan_nodup.sublist (List.filter_sublist.map _)

theorem pbchIdx_nodup (nu : Nat) : ((pbchIdx nu).map gridIndex).Nodup :=
  scan_nodup.sublist (List.filter_sublist.map _)

theorem gridIndex_lt_of_scan {p : Nat × Nat} (h : p ∈ scan) : gridIndex p < 960 := by
  have := (mem_scan p).1 h
  simp only [gridIndex]
  omega

/-! ### Grids in DMEM -/

@[simp] theorem State.readGrid_length (s : State) (a : Nat) : (s.readGrid a).length = 960 := by
  simp [State.readGrid]

/-- A sample of a grid read from DMEM (R66). -/
theorem gridAt_readGrid (s : State) (a : Nat) (p : Nat × Nat) (h : gridIndex p < 960) :
    gridAt (s.readGrid a) p = Sample.ofWord (s.memRead (a + 4 * gridIndex p)) := by
  rw [gridAt, List.getD_eq_getElem _ _ (by rw [State.readGrid_length]; exact h)]
  exact State.readSamples_getElem s a 960 (gridIndex p) _

/-- Reading back a word of a written grid (R66). -/
theorem State.memRead_writeGrid (s : State) (a : Nat) (g : Grid) (p : Nat × Nat) (h : gridIndex p < g.length) :
    (s.writeGrid a g).memRead (a + 4 * gridIndex p) = (gridAt g p).word := by
  rw [gridAt, List.getD_eq_getElem _ _ h]
  exact State.memRead_writeSamples s a g _ h

/-- Writing a grid and reading it back (R66). -/
theorem State.readGrid_writeGrid (s : State) (a : Nat) (g : Grid) (h : g.length = 960) :
    (s.writeGrid a g).readGrid a = g := by
  have := State.readSamples_writeSamples s a g
  rw [h] at this
  exact this

/-! ### The written grids -/

/-- A word of a grid that a command wrote (R66). -/
theorem State.memRead_writtenGrid (s : State) (a : Nat) (g : Grid) (hg : g.length = 960) (k l : Nat) (hk : k < 240) (hl : l < 4) :
    (s.writeGrid a g).memRead (gridAddr a (k, l)) = (gridAt g (k, l)).word := by
  exact State.memRead_writeGrid s a g (k, l) (by rw [hg]; simp only [gridIndex]; omega)

/-- Placing a PSS or an SSS (R171, R175, R176). -/
theorem gridAt_sync (l0 : Nat) (hl0 : l0 < 4) (g : Grid) (hg : g.length = 960) (xs : List Sample) (hx : xs.length = 127) (k l : Nat) (hk : k < 240) (hl : l < 4) :
    gridAt (place g (syncIdx l0) xs) (k, l) =
      if l = l0 ∧ 56 ≤ k ∧ k < 183 then xs.getD (k - 56) Sample.zero else gridAt g (k, l) := by
  split
  · next h =>
    obtain ⟨rfl, h1, h2⟩ := h
    have hk' : k - 56 < (syncIdx l).length := by simp; omega
    have := gridAt_place g (syncIdx l) xs (k - 56) hk' (by omega) (syncIdx_nodup l) (by
      intro p hp
      simp only [syncIdx, List.mem_map, List.mem_range] at hp
      obtain ⟨n, hn, rfl⟩ := hp
      rw [hg]; simp only [gridIndex]; omega)
    rw [syncIdx_getElem] at this
    rw [List.getD_eq_getElem _ _ (by omega), ← this]
    congr 2
    omega
  · next h =>
    apply gridAt_place_outside
    intro p hp he
    have hpe := hp
    simp only [syncIdx, List.mem_map, List.mem_range] at hp
    obtain ⟨n, hn, rfl⟩ := hp
    have := gridIndex_inj (by simp only; omega) (by simpa using hk) he
    simp only [Prod.mk.injEq] at this
    apply h
    omega

/-- The word of a sample read from DMEM is the word in DMEM. -/
theorem readSamples_getD_word (s : State) (a n i : Nat) (h : i < n) :
    ((s.readSamples a n).getD i Sample.zero).word = s.memRead (a + 4 * i) := by
  rw [List.getD_eq_getElem _ _ (by simpa using h), State.readSamples_getElem, Sample.word_ofWord]

/-- R173. -/
theorem dmrsIdx_len (nu) (h : nu < 4) : (dmrsIdx nu).length = 144 := by rw [dmrsIdx_closed nu h]; simp

/-- R173. -/
theorem pbchIdx_len (nu) (h : nu < 4) : (pbchIdx nu).length = 432 := by rw [pbchIdx_closed nu h]; simp

/-- R173. -/
theorem dmrsIdx_get (nu j) (h : nu < 4) (hj : j < (dmrsIdx nu).length) : (dmrsIdx nu)[j] = dmrsPos nu j := by
  simp only [dmrsIdx_closed nu h, List.getElem_map, List.getElem_range]

/-- R173. -/
theorem pbchIdx_get (nu j) (h : nu < 4) (hj : j < (pbchIdx nu).length) : (pbchIdx nu)[j] = pbchPos nu j := by
  simp only [pbchIdx_closed nu h, List.getElem_map, List.getElem_range]

/-- A closed-form position is in its table. -/
theorem dmrsPos_mem (nu j) (h : nu < 4) (hj : j < 144) : dmrsPos nu j ∈ dmrsIdx nu := by
  rw [dmrsIdx_closed nu h]; exact List.mem_map.2 ⟨j, by simpa using hj, rfl⟩

/-- A closed-form position is in its table. -/
theorem pbchPos_mem (nu j) (h : nu < 4) (hj : j < 432) : pbchPos nu j ∈ pbchIdx nu := by
  rw [pbchIdx_closed nu h]; exact List.mem_map.2 ⟨j, by simpa using hj, rfl⟩

theorem dmrs_scan {nu : Nat} {p : Nat × Nat} (h : p ∈ dmrsIdx nu) : p ∈ scan := ((mem_dmrsIdx _ _).1 h).1

theorem pbch_scan {nu : Nat} {p : Nat × Nat} (h : p ∈ pbchIdx nu) : p ∈ scan := ((mem_pbchIdx _ _).1 h).1

/-- Placing the PBCH and the DM-RS (R177): each closed-form position holds its sample, and positions outside the scan stay. -/
theorem gridAt_place_pbch (g : Grid) (hg : g.length = 960) (nu : Nat) (hnu : nu < 4) (p d : List Sample) (hp : p.length = 432)
   (hd : d.length = 144) :
    (∀ i, i < 432 → gridAt (place (place g (pbchIdx nu) p) (dmrsIdx nu) d) (pbchPos nu i) = p.getD i Sample.zero) ∧
    (∀ j, j < 144 → gridAt (place (place g (pbchIdx nu) p) (dmrsIdx nu) d) (dmrsPos nu j) = d.getD j Sample.zero) ∧
    ∀ q : Nat × Nat, q.1 < 240 → q ∉ scan → gridAt (place (place g (pbchIdx nu) p) (dmrsIdx nu) d) q = gridAt g q := by
  refine ⟨?_, ?_, ?_⟩
  · intro i hi
    have hm := pbchPos_mem nu i hnu hi
    rw [gridAt_place_outside]
    · have hlt : i < (pbchIdx nu).length := by rw [pbchIdx_len nu hnu]; exact hi
      rw [← pbchIdx_get nu i hnu hlt, gridAt_place _ _ _ _ hlt (by omega) (pbchIdx_nodup nu), List.getD_eq_getElem]
      intro q hq
      rw [hg]; exact gridIndex_lt_of_scan (pbch_scan hq)
    · intro q hq he
      have h1 := (mem_dmrsIdx nu q).1 hq
      have h2 := (mem_pbchIdx nu _).1 hm
      have := gridIndex_inj ((mem_scan q).1 h1.1).1 ((mem_scan _).1 h2.1).1 he
      rw [this] at h1
      exact h2.2 h1.2
  · intro j hj
    have hlt : j < (dmrsIdx nu).length := by rw [dmrsIdx_len nu hnu]; exact hj
    rw [← dmrsIdx_get nu j hnu hlt, gridAt_place _ _ _ _ hlt (by omega) (dmrsIdx_nodup nu), List.getD_eq_getElem]
    intro q hq
    rw [place_length, hg]; exact gridIndex_lt_of_scan (dmrs_scan hq)
  · intro q hq hns
    rw [gridAt_place_outside, gridAt_place_outside]
    · intro r hr he
      have h1 := pbch_scan hr
      exact hns (gridIndex_inj ((mem_scan r).1 h1).1 hq he ▸ h1)
    · intro r hr he
      have h1 := dmrs_scan hr
      exact hns (gridIndex_inj ((mem_scan r).1 h1).1 hq he ▸ h1)

/-- Positions outside the scan (R172). -/
theorem outside_not_scan {k l} (h : OutsideScan (k, l)) : (k, l) ∉ scan := by
  intro hm
  have h2 := (mem_scan _).1 hm
  simp only [OutsideScan] at h
  simp only at h2
  omega

/-- A word that gathering copies from a grid in DMEM. -/
theorem gather_word (s : State) (a : Nat) (idx : List (Nat × Nat)) (i : Nat) (h : i < (gather (s.readGrid a) idx).length)
   (hb : gridIndex (idx[i]'(by simpa using h)) < 960) :
   (gather (s.readGrid a) idx)[i].word = s.memRead (gridAddr a (idx[i]'(by simpa using h))) := by
  rw [gather_getElem, gridAt_readGrid _ _ _ hb, Sample.word_ofWord]; rfl

/-! ### MAP_SSB's writes -/

/-- A write of samples changes DMEM alone. -/
theorem State.writeSamples_eq (s : State) (a : Nat) (xs : List Sample) :
    s.writeSamples a xs = { s with mem := s.mem.writeWords a (xs.map Sample.word) } := rfl

/-- MAP_SSB's writes, symbol after symbol (R191). -/
theorem writeSsb_eq (s : State) (koff loff : Nat) (g : Grid) :
    writeSsb s koff loff g =
      (((s.writeSamples (s.snap.resourceAddr koff loff) (gridColumn g 0)).writeSamples
        (s.snap.resourceAddr koff (loff + 1)) (gridColumn g 1)).writeSamples
        (s.snap.resourceAddr koff (loff + 2)) (gridColumn g 2)).writeSamples
        (s.snap.resourceAddr koff (loff + 3)) (gridColumn g 3) := by
  simp only [writeSsb, show List.range 4 = [0, 1, 2, 3] from rfl, List.foldl_cons, List.foldl_nil, Nat.add_zero]

/-- MAP_SSB's writes change DMEM alone. -/
theorem writeSsb_frame (s : State) (koff loff : Nat) (g : Grid) :
    ∃ m, writeSsb s koff loff g = { s with mem := m } := by
  rw [writeSsb_eq]
  simp only [State.writeSamples_eq]
  exact ⟨_, rfl⟩

theorem gridColumn_length (g : Grid) (hg : g.length = 960) (l : Nat) (hl : l < 4) : (gridColumn g l).length = 240 := by
  simp only [gridColumn, List.length_take, List.length_drop, hg]
  omega

theorem gridColumn_getElem (g : Grid) (hg : g.length = 960) (k l : Nat) (hk : k < 240) (hl : l < 4)
    (h : k < (gridColumn g l).length) : (gridColumn g l)[k] = gridAt g (k, l) := by
  simp only [gridColumn, List.getElem_take, List.getElem_drop, gridAt, gridIndex]
  rw [List.getD_eq_getElem _ _ (by omega)]

end Sys2Proof.Machine
end

