-- ==== Sys2Proof/Laws/Ops.lean ====
section
/-!
SUPPORT. What the shared operations can do: the checks of 60_exceptions.md R255, completion (R43, R256), acceptance
(R42) and the operand checks of 20_memory.md R62, R63, R68.
-/

namespace Sys2Proof.Machine

/-! ### Checks -/

@[simp] theorem check_eq_none (ok : Bool) (c : ErrCode) (n : Nat) : check ok c n = none ↔ ok = true := by
  cases ok <;> simp [check]

theorem check_eq_some (ok : Bool) (c : ErrCode) (n : Nat) (e : CmdError) :
    check ok c n = some e ↔ ok = false ∧ e = ⟨c, n⟩ := by
  cases ok <;> simp [check, eq_comm]

/-- A check that holds raises nothing. -/
theorem check_pass {p : Prop} [Decidable p] (h : p) (c : ErrCode) (n : Nat) : check (decide p) c n = none := by
  simp [check, h]

/-- A check that does not hold raises its error. -/
theorem check_fail {p : Prop} [Decidable p] (h : ¬p) (c : ErrCode) (n : Nat) :
    check (decide p) c n = some ⟨c, n⟩ := by
  simp [check, h]

theorem check_true (c : ErrCode) (n : Nat) : check true c n = none := rfl

theorem check_false (c : ErrCode) (n : Nat) : check false c n = some ⟨c, n⟩ := rfl

/-- `CFG.N_RB` is legal (R28). -/
theorem Snapshot.nRbLegal_eq (S : Snapshot) : S.nRbLegal = decide (1 ≤ S.cfg.nRb.toNat ∧ S.cfg.nRb.toNat ≤ 275) :=
  (Bool.decide_and _ _).symm

/-- `CFG.MU` is legal (R28). -/
theorem Snapshot.muLegal_eq (S : Snapshot) : S.muLegal = decide (S.cfg.mu.toNat ≤ 4) := rfl

/-- `CFG.L_MAX` is legal (R28). -/
theorem Snapshot.lMaxLegal_eq (S : Snapshot) : S.lMaxLegal = decide (1 ≤ S.cfg.lMax.toNat ∧ S.cfg.lMax.toNat ≤ 64) :=
  (Bool.decide_and _ _).symm

/-- A collection in progress fits the symbol (R220). -/
theorem Detector.windowFits_iff (d : Detector) (nSc : Nat) :
    d.windowFits nSc = true ↔ (d.srem ≠ .searching → d.kssb.toNat + 240 ≤ nSc) := by
  unfold Detector.windowFits
  cases d.srem <;> simp

@[simp] theorem firstError_nil : firstError [] = none := rfl

@[simp] theorem firstError_none_cons (l : List (Option CmdError)) : firstError (none :: l) = firstError l := rfl

@[simp] theorem firstError_some_cons (e : CmdError) (l : List (Option CmdError)) :
    firstError (some e :: l) = some e := rfl

theorem firstError_cons (o : Option CmdError) (l : List (Option CmdError)) :
    firstError (o :: l) = o.or (firstError l) := by
  cases o <;> rfl

theorem firstError_append (l₁ l₂ : List (Option CmdError)) :
    firstError (l₁ ++ l₂) = (firstError l₁).or (firstError l₂) := by
  induction l₁ with
  | nil => simp
  | cons o l ih => cases o <;> simp [ih]

/-- No error if and only if every check passes. -/
theorem firstError_eq_none (l : List (Option CmdError)) : firstError l = none ↔ ∀ o ∈ l, o = none := by
  induction l with
  | nil => simp
  | cons o l ih => cases o <;> simp [ih]

/-- The error raised is one of the listed checks' errors. -/
theorem firstError_mem {l : List (Option CmdError)} {e : CmdError} (h : firstError l = some e) : some e ∈ l := by
  induction l with
  | nil => simp at h
  | cons o l ih =>
    cases o with
    | none => exact List.mem_cons_of_mem _ (ih (by simpa using h))
    | some e' => simp at h; simp [h]

/-- The error of a list of checks is that of the first that fails (R255). -/
theorem firstError_map_split {α : Type} {f : α → Option CmdError} {l : List α} {e : CmdError}
    (h : firstError (l.map f) = some e) :
    ∃ pre x post, l = pre ++ x :: post ∧ f x = some e ∧ ∀ p ∈ pre, f p = none := by
  induction l with
  | nil => simp at h
  | cons a l ih =>
    cases ha : f a with
    | some e' =>
      rw [List.map_cons, ha, firstError_some_cons] at h
      exact ⟨[], a, l, rfl, ha.trans h, by simp⟩
    | none =>
      rw [List.map_cons, ha, firstError_none_cons] at h
      obtain ⟨pre, x, post, rfl, hx, hp⟩ := ih h
      refine ⟨a :: pre, x, post, rfl, hx, fun p hp' => ?_⟩
      rcases List.mem_cons.1 hp' with rfl | hp'
      · exact ha
      · exact hp p hp'

/-- The operand checks pass if and only if every region is aligned and in range and no pair overlaps. -/
theorem regionChecks_eq_none (rs : List Region) (size : Nat) :
    regionChecks rs size = none ↔
      (∀ r ∈ rs, r.aligned = true) ∧ (∀ r ∈ rs, r.inRange size = true) ∧
        ∀ p ∈ overlapPairs, overlapCheck rs p = none := by
  simp only [regionChecks, firstError_eq_none, List.mem_cons, List.not_mem_nil, or_false, forall_eq_or_imp, forall_eq,
    List.forall_mem_map, check_eq_none]

/-- A command passes its checks if and only if its field checks and its operand checks pass. -/
theorem commandError_eq_none (i : Instr) (s : State) :
    commandError i s = none ↔
      (∀ o ∈ fieldChecks i s.snap s.det, o = none) ∧
        regionChecks (namedRegions i s.snap) s.params.dmemSize = none := by
  simp only [commandError, firstError_eq_none, List.mem_append, List.mem_singleton]
  constructor
  · intro h
    exact ⟨fun o ho => h o (.inl ho), h _ (.inr rfl)⟩
  · rintro ⟨h1, h2⟩ o (ho | rfl)
    · exact h1 o ho
    · exact h2

/-- Regions of a command that passes its checks are aligned and in range. -/
theorem region_ok_of_commandError {i : Instr} {s : State} (h : commandError i s = none) {r : Region}
    (hr : r ∈ namedRegions i s.snap) : r.base % 4 = 0 ∧ r.start + 4 * r.words ≤ s.params.dmemSize := by
  obtain ⟨_, h2⟩ := (commandError_eq_none i s).1 h
  obtain ⟨ha, hb, _⟩ := (regionChecks_eq_none _ _).1 h2
  exact ⟨by simpa [Region.aligned] using ha r hr, by simpa [Region.inRange] using hb r hr⟩

/-- Two regions do not overlap (R68). -/
theorem Region.overlaps_eq_false (a b : Region) :
    a.overlaps b = false ↔
      a.words = 0 ∨ b.words = 0 ∨ b.start + 4 * b.words ≤ a.start ∨ a.start + 4 * a.words ≤ b.start := by
  simp only [Region.overlaps, Bool.and_eq_false_iff, decide_eq_false_iff_not]
  omega

/-! ### Completion -/

@[simp] theorem complete_none (s : State) (f : State → State) : complete none s f = succeedCommand (f s) := rfl

@[simp] theorem complete_some (e : CmdError) (s : State) (f : State → State) :
    complete (some e) s f = failCommand s e := rfl

/-- All that completing a command can do: fail with its error, or succeed with its effect. -/
theorem complete_cases {err : Option CmdError} {s t : State} {f : State → State} (h : complete err s f = t) :
    (∃ e, err = some e ∧ t = failCommand s e) ∨ (err = none ∧ t = succeedCommand (f s)) := by
  cases err with
  | none => exact .inr ⟨rfl, h.symm⟩
  | some e => exact .inl ⟨e, rfl, h.symm⟩

/-! ### Acceptance -/

/-- All that a `CMD` write can do (R42): be dropped, or pend the word. -/
theorem acceptCommand_cases (s : State) (w : Word) :
    ((s.status.busy = true ∨ s.status.err = true) ∧ acceptCommand s w = s.setOvr) ∨
      (s.status.busy = false ∧ s.status.err = false ∧ acceptCommand s w = s.pend w) := by
  unfold acceptCommand
  cases s.status.busy <;> cases s.status.err <;> simp

/-! ### Flags -/

@[simp] theorem Status.w1c_busy (t : Status) (w : Word) : (t.w1c w).busy = t.busy := rfl
@[simp] theorem Status.w1c_done (t : Status) (w : Word) : (t.w1c w).done = (t.done && !w.getLsbD 1) := rfl
@[simp] theorem Status.w1c_err (t : Status) (w : Word) : (t.w1c w).err = (t.err && !w.getLsbD 2) := rfl
@[simp] theorem Status.w1c_detValid (t : Status) (w : Word) : (t.w1c w).detValid = (t.detValid && !w.getLsbD 3) := rfl
@[simp] theorem Status.w1c_ovr (t : Status) (w : Word) : (t.w1c w).ovr = (t.ovr && !w.getLsbD 4) := rfl
@[simp] theorem Status.w1c_peakOob (t : Status) (w : Word) : (t.w1c w).peakOob = (t.peakOob && !w.getLsbD 5) := rfl
@[simp] theorem Status.w1c_detOvf (t : Status) (w : Word) : (t.w1c w).detOvf = (t.detOvf && !w.getLsbD 6) := rfl
@[simp] theorem Status.w1c_errCode (t : Status) (w : Word) :
    (t.w1c w).errCode = if w.getLsbD 2 then 0#4 else t.errCode := rfl

theorem ErrCode.code_le (c : ErrCode) : c.code.toNat ≤ 7 := by cases c <;> decide

theorem ErrCode.code_ne_zero (c : ErrCode) : c.code ≠ 0#4 := by cases c <;> decide

end Sys2Proof.Machine
end

