-- ==== Sys2Proof/Laws/Exec.lean ====
section
/-!
SUPPORT. What `exec` can do, whatever the command: complete with its error or with its effect; and when the checks of a
command pass, in terms of its operands (60_exceptions.md R255, 20_memory.md R62, R63, R68).
-/

namespace Sys2Proof.Machine

/-- Every meaning is the completion of its command, with its checks' error. -/
theorem exec_complete (i : Instr) : ∃ f : State → State, ∀ s, exec i s = .next (complete (commandError i s) s f) := by
  cases i <;> exact ⟨_, fun _ => rfl⟩

/-- A command with an error fails, and its state is the trap entry's. -/
theorem exec_of_error {i : Instr} {s : State} {e : CmdError} (h : commandError i s = some e) :
    exec i s = .next (failCommand s e) := by
  obtain ⟨f, hf⟩ := exec_complete i
  rw [hf, h, complete_some]

/-- All that `exec` can do: the trap entry, or success. -/
theorem exec_cases {i : Instr} {s t : State} (h : exec i s = .next t) :
    (∃ e, commandError i s = some e ∧ t = failCommand s e) ∨ commandError i s = none := by
  cases hc : commandError i s with
  | none => exact .inr rfl
  | some e =>
    rw [exec_of_error hc] at h
    exact .inl ⟨e, rfl, (Host.Outcome.next.inj h).symm⟩

/-- The error of the first field check that fails, or of the operand checks. -/
theorem commandError_eq (i : Instr) (s : State) :
    commandError i s =
      (firstError (fieldChecks i s.snap s.det)).or (regionChecks (namedRegions i s.snap) s.params.dmemSize) := by
  rw [commandError, firstError_append, firstError_cons, firstError_nil, Option.or_none]

/-! ### When the operand checks pass -/

theorem regionChecks_nil (size : Nat) : regionChecks [] size = none := rfl

/-- One region passes its checks if and only if it is aligned and in range. -/
theorem regionChecks_one (a : Region) (size : Nat) :
    regionChecks [a] size = none ↔ a.base % 4 = 0 ∧ a.start + 4 * a.words ≤ size := by
  rw [regionChecks_eq_none]
  simp only [List.mem_singleton, forall_eq, Region.aligned, Region.inRange, decide_eq_true_eq]
  constructor
  · exact fun h => ⟨h.1, h.2.1⟩
  · refine fun h => ⟨h.1, h.2, fun p hp => ?_⟩
    have hne : p.1 ≠ p.2 := by revert p; decide
    simp only [overlapCheck, regionOf, List.find?_cons, List.find?_nil]
    by_cases h1 : a.op = p.1
    · simp [h1, hne]
    · simp [h1]

/-- A read region and a write region pass their checks if and only if both are aligned and in range and they do not
overlap. -/
theorem regionChecks_two (a b : Region) (size : Nat) (ha : a.op = .src0) (hb : b.op = .dst0) :
    regionChecks [a, b] size = none ↔
      (a.base % 4 = 0 ∧ a.start + 4 * a.words ≤ size) ∧ (b.base % 4 = 0 ∧ b.start + 4 * b.words ≤ size) ∧
        Apart a.start a.words b.start b.words := by
  rw [regionChecks_eq_none]
  simp [Region.aligned, Region.inRange, overlapPairs, overlapCheck, regionOf, List.find?_cons, ha, hb,
    Region.overlaps_eq_false, Apart]
  omega

/-- MAP_PBCH's regions: both inputs apart from the output. -/
theorem regionChecks_two_src (a b c : Region) (size : Nat) (ha : a.op = .src0) (hb : b.op = .src1) (hc : c.op = .dst0) :
    regionChecks [a, b, c] size = none ↔
      (a.base % 4 = 0 ∧ a.start + 4 * a.words ≤ size) ∧ (b.base % 4 = 0 ∧ b.start + 4 * b.words ≤ size) ∧
        (c.base % 4 = 0 ∧ c.start + 4 * c.words ≤ size) ∧ Apart a.start a.words c.start c.words ∧
          Apart b.start b.words c.start c.words := by
  rw [regionChecks_eq_none]
  simp [Region.aligned, Region.inRange, overlapPairs, overlapCheck, regionOf, List.find?_cons, ha, hb, hc,
    Region.overlaps_eq_false, Apart]
  omega

/-- UNMAP_PBCH's regions: the input apart from both outputs, and the outputs apart. -/
theorem regionChecks_two_dst (a b c : Region) (size : Nat) (ha : a.op = .src0) (hb : b.op = .dst0) (hc : c.op = .dst1) :
    regionChecks [a, b, c] size = none ↔
      (a.base % 4 = 0 ∧ a.start + 4 * a.words ≤ size) ∧ (b.base % 4 = 0 ∧ b.start + 4 * b.words ≤ size) ∧
        (c.base % 4 = 0 ∧ c.start + 4 * c.words ≤ size) ∧ Apart a.start a.words b.start b.words ∧
          Apart a.start a.words c.start c.words ∧ Apart b.start b.words c.start c.words := by
  rw [regionChecks_eq_none]
  simp [Region.aligned, Region.inRange, overlapPairs, overlapCheck, regionOf, List.find?_cons, ha, hb, hc,
    Region.overlaps_eq_false, Apart]
  omega

/-! ### Success: what each command does when its checks pass -/

theorem exec_nop_ok {s : State} (h : commandError .nop s = none) :
    exec .nop s = .next (succeedCommand (
      s)) := by
  simp only [exec, execNop, h, complete_none]

theorem exec_prsg_ok {s : State} (h : commandError .prsg s = none) :
    exec .prsg s = .next (succeedCommand (
      s.writeBits s.snap.dst0.toNat (prsg s.snap.len.toNat s.snap.cinit))) := by
  simp only [exec, execPrsg, h, complete_none]

theorem exec_pssGen_ok {nid2 : Nat} {s : State} (h : commandError (.pssGen nid2) s = none) :
    exec (.pssGen nid2) s = .next (succeedCommand (
      s.writeSamples s.snap.dst0.toNat ((pss s.params nid2).map bipolar))) := by
  simp only [exec, execPssGen, h, complete_none]

theorem exec_sssGen_ok {nid1 nid2 : Nat} {s : State} (h : commandError (.sssGen nid1 nid2) s = none) :
    exec (.sssGen nid1 nid2) s = .next (succeedCommand (
      s.writeSamples s.snap.dst0.toNat ((sss s.params nid1 nid2).map bipolar))) := by
  simp only [exec, execSssGen, h, complete_none]

theorem exec_dmrsGen_ok {ncell issb nhf : Nat} {s : State} (h : commandError (.dmrsGen ncell issb nhf) s = none) :
    exec (.dmrsGen ncell issb nhf) s = .next (succeedCommand (
      s.writeSamples s.snap.dst0.toNat (dmrs issb ncell s.snap.cfg.lMax.toNat nhf))) := by
  simp only [exec, execDmrsGen, h, complete_none]

theorem exec_qpskMod_ok {s : State} (h : commandError .qpskMod s = none) :
    exec .qpskMod s = .next (succeedCommand (
      s.writeSamples s.snap.dst0.toNat (qpskPairs (s.readBits s.snap.src0.toNat s.snap.len.toNat)))) := by
  simp only [exec, execQpskMod, h, complete_none]

theorem exec_qpskDemod_ok {s : State} (h : commandError .qpskDemod s = none) :
    exec .qpskDemod s = .next (succeedCommand (
      s.writeBits s.snap.dst0.toNat ((s.readSamples s.snap.src0.toNat s.snap.len.toNat).flatMap demod))) := by
  simp only [exec, execQpskDemod, h, complete_none]

theorem exec_mapPss_ok {s : State} (h : commandError .mapPss s = none) :
    exec .mapPss s = .next (succeedCommand (
      s.writeGrid s.snap.dst0.toNat (syncGrid 0 (s.readSamples s.snap.src0.toNat 127)))) := by
  simp only [exec, execMapPss, h, complete_none]

theorem exec_mapSss_ok {s : State} (h : commandError .mapSss s = none) :
    exec .mapSss s = .next (succeedCommand (
      s.writeGrid s.snap.dst0.toNat (syncGrid 2 (s.readSamples s.snap.src0.toNat 127)))) := by
  simp only [exec, execMapSss, h, complete_none]

theorem exec_mapPbch_ok {nu : Nat} {s : State} (h : commandError (.mapPbch nu) s = none) :
    exec (.mapPbch nu) s = .next (succeedCommand (
      s.writeGrid s.snap.dst0.toNat
      (pbchGrid nu (s.readSamples s.snap.src0.toNat 432) (s.readSamples s.snap.src1.toNat 144)))) := by
  simp only [exec, execMapPbch, h, complete_none]

theorem exec_unmapSss_ok {s : State} (h : commandError .unmapSss s = none) :
    exec .unmapSss s = .next (succeedCommand (
      s.writeSamples s.snap.dst0.toNat (gather (s.readGrid s.snap.src0.toNat) (syncIdx 2)))) := by
  simp only [exec, execUnmapSss, h, complete_none]

theorem exec_unmapPbch_ok {nu : Nat} {s : State} (h : commandError (.unmapPbch nu) s = none) :
    exec (.unmapPbch nu) s = .next (succeedCommand (
      let g := s.readGrid s.snap.src0.toNat
      (s.writeSamples s.snap.dst0.toNat (gather g (pbchIdx nu))).writeSamples s.snap.dst1.toNat (gather g (dmrsIdx nu)))) := by
  simp only [exec, execUnmapPbch, h, complete_none]

theorem exec_ssbGen_ok {nid1 nid2 issb nhf : Nat} {s : State} (h : commandError (.ssbGen nid1 nid2 issb nhf) s = none) :
    exec (.ssbGen nid1 nid2 issb nhf) s = .next (succeedCommand (
      s.writeGrid s.snap.dst0.toNat
      (ssbGrid s.params nid1 nid2 s.snap.cfg.lMax.toNat issb nhf (s.readSamples s.snap.src0.toNat 432)))) := by
  simp only [exec, execSsbGen, h, complete_none]

theorem exec_mapSsb_ok {koff loff : Nat} {s : State} (h : commandError (.mapSsb koff loff) s = none) :
    exec (.mapSsb koff loff) s = .next (succeedCommand (
      writeSsb s koff loff (s.readGrid s.snap.src0.toNat))) := by
  simp only [exec, execMapSsb, h, complete_none]

theorem exec_detReset_ok {issb : Nat} {s : State} (h : commandError (.detReset issb) s = none) :
    exec (.detReset issb) s = .next (succeedCommand (
      { s with det := { s.det with srem := .searching, nid2 := 0#2, kssb := 0#12, issb := BitVec.ofNat 6 issb } })) := by
  simp only [exec, execDetReset, h, complete_none]

theorem exec_detStep_ok {s : State} (h : commandError .detStep s = none) :
    exec .detStep s = .next (succeedCommand (
      detStep s (s.readSamples s.snap.src0.toNat s.snap.nSc))) := by
  simp only [exec, execDetStep, h, complete_none]

theorem exec_decodeSss_ok {nid2 : Nat} {s : State} (h : commandError (.decodeSss nid2) s = none) :
    exec (.decodeSss nid2) s = .next (succeedCommand (
      let best := sssSearch s.params (s.readSamples s.snap.src0.toNat 127) nid2
      { s with sssRes := BitVec.ofNat 9 best.1, sssCorr := BitVec.ofInt 64 best.2 })) := by
  simp only [exec, execDecodeSss, h, complete_none]

/-! ### Success needs these operands -/

/-- A command with one region passes its checks. -/
theorem commandError_one {i : Instr} {s : State} (hf : firstError (fieldChecks i s.snap s.det) = none) {a : Region}
    (hr : namedRegions i s.snap = [a]) (h1 : a.base % 4 = 0) (h2 : a.start + 4 * a.words ≤ s.params.dmemSize) :
    commandError i s = none := by
  rw [commandError_eq, hf, hr, Option.none_or, regionChecks_one]; exact ⟨h1, h2⟩

/-- A command with an input and an output passes its checks. -/
theorem commandError_two {i : Instr} {s : State} (hf : firstError (fieldChecks i s.snap s.det) = none) {a b : Region}
    (hr : namedRegions i s.snap = [a, b]) (ha : a.op = .src0) (hb : b.op = .dst0)
    (h : (a.base % 4 = 0 ∧ a.start + 4 * a.words ≤ s.params.dmemSize) ∧
      (b.base % 4 = 0 ∧ b.start + 4 * b.words ≤ s.params.dmemSize) ∧ Apart a.start a.words b.start b.words) :
    commandError i s = none := by
  rw [commandError_eq, hf, hr, Option.none_or, regionChecks_two _ _ _ ha hb]; exact h

/-- MAP_PBCH passes its checks. -/
theorem commandError_two_src {i : Instr} {s : State} (hf : firstError (fieldChecks i s.snap s.det) = none) {a b c : Region}
    (hr : namedRegions i s.snap = [a, b, c]) (ha : a.op = .src0) (hb : b.op = .src1) (hc : c.op = .dst0)
    (h : (a.base % 4 = 0 ∧ a.start + 4 * a.words ≤ s.params.dmemSize) ∧ (b.base % 4 = 0 ∧ b.start + 4 * b.words ≤ s.params.dmemSize) ∧
        (c.base % 4 = 0 ∧ c.start + 4 * c.words ≤ s.params.dmemSize) ∧ Apart a.start a.words c.start c.words ∧
          Apart b.start b.words c.start c.words) :
    commandError i s = none := by
  rw [commandError_eq, hf, hr, Option.none_or, regionChecks_two_src _ _ _ _ ha hb hc]; exact h

/-- UNMAP_PBCH passes its checks. -/
theorem commandError_two_dst {i : Instr} {s : State} (hf : firstError (fieldChecks i s.snap s.det) = none) {a b c : Region}
    (hr : namedRegions i s.snap = [a, b, c]) (ha : a.op = .src0) (hb : b.op = .dst0) (hc : c.op = .dst1)
    (h : (a.base % 4 = 0 ∧ a.start + 4 * a.words ≤ s.params.dmemSize) ∧ (b.base % 4 = 0 ∧ b.start + 4 * b.words ≤ s.params.dmemSize) ∧
        (c.base % 4 = 0 ∧ c.start + 4 * c.words ≤ s.params.dmemSize) ∧ Apart a.start a.words b.start b.words ∧
          Apart a.start a.words c.start c.words ∧ Apart b.start b.words c.start c.words) :
    commandError i s = none := by
  rw [commandError_eq, hf, hr, Option.none_or, regionChecks_two_dst _ _ _ _ ha hb hc]; exact h

/-! ### What a command leaves unchanged -/

/-- Collection and emission change these fields alone (R218, R219). -/
theorem collectAndEmit_frame (u : State) (y : List Sample) : collectAndEmit u y = { u with
    status := { u.status with
      detValid := (collectAndEmit u y).status.detValid, detOvf := (collectAndEmit u y).status.detOvf }
    det := (collectAndEmit u y).det
    detRes := (collectAndEmit u y).detRes
    mem := (collectAndEmit u y).mem } := by
  rcases collectAndEmit_cases u y with ⟨_, e⟩ | ⟨_, _, _, e⟩ | ⟨_, e⟩
  all_goals
    rw [e]
    try rfl

/-- The trigger decision, after the latch, changes these fields alone (R215 to R217). -/
theorem triggerStep_frame (s : State) (r : Sweep) : triggerStep (latchSweep s r) r = { s with
    status := { s.status with peakOob := (triggerStep (latchSweep s r) r).status.peakOob }
    det := (triggerStep (latchSweep s r) r).det
    corr := (triggerStep (latchSweep s r) r).corr
    corrPos := (triggerStep (latchSweep s r) r).corrPos } := by
  rcases triggerStep_cases (latchSweep s r) r with ⟨_, e⟩ | ⟨_, _, e⟩ | ⟨_, _, e⟩
  all_goals
    rw [e]
    try rfl

/-- A detector step changes these fields alone (R220). -/
theorem detStep_frame (s : State) (y : List Sample) : detStep s y = { s with
    status := { s.status with
      peakOob := (detStep s y).status.peakOob, detValid := (detStep s y).status.detValid
      detOvf := (detStep s y).status.detOvf }
    det := (detStep s y).det
    detRes := (detStep s y).detRes
    corr := (detStep s y).corr
    corrPos := (detStep s y).corrPos
    mem := (detStep s y).mem } := by
  unfold detStep
  simp only
  generalize sweep s.params y s.snap.nSc = r
  have h := collectAndEmit_frame (triggerStep (latchSweep s r) r) y
  have h2 := triggerStep_frame s r
  generalize triggerStep (latchSweep s r) r = u at *
  generalize collectAndEmit u y = v at *
  rw [h, h2]

theorem succeedsWriting_of_exec {i : Instr} {s t u : State} (h : exec i s = .next t) (hu : exec i s = .next u)
    (hw : SucceedsWriting s u) : SucceedsWriting s t :=
  Host.Outcome.next.inj (h.symm.trans hu) ▸ hw

/-- Every command but the three of the correlation engine changes, on success, DMEM, BUSY and DONE alone (R120, R150,
R170). -/
theorem exec_succeedsWriting {i : Instr} {s t : State} (h : exec i s = .next t) (hc : commandError i s = none)
    (h1 : i ≠ .detStep) (h2 : ∀ n, i ≠ .detReset n) (h3 : ∀ n, i ≠ .decodeSss n) : SucceedsWriting s t := by
  cases i with
  | detStep => exact absurd rfl h1
  | detReset n => exact absurd rfl (h2 n)
  | decodeSss n => exact absurd rfl (h3 n)
  | mapSsb koff loff =>
    obtain ⟨m, hm⟩ := writeSsb_frame s koff loff (s.readGrid s.snap.src0.toNat)
    have hu := exec_mapSsb_ok hc
    rw [hm] at hu
    exact succeedsWriting_of_exec h hu rfl
  | nop => exact succeedsWriting_of_exec h (exec_nop_ok hc) rfl
  | prsg => exact succeedsWriting_of_exec h (exec_prsg_ok hc) rfl
  | pssGen => exact succeedsWriting_of_exec h (exec_pssGen_ok hc) rfl
  | sssGen => exact succeedsWriting_of_exec h (exec_sssGen_ok hc) rfl
  | dmrsGen => exact succeedsWriting_of_exec h (exec_dmrsGen_ok hc) rfl
  | qpskMod => exact succeedsWriting_of_exec h (exec_qpskMod_ok hc) rfl
  | qpskDemod => exact succeedsWriting_of_exec h (exec_qpskDemod_ok hc) rfl
  | mapPss => exact succeedsWriting_of_exec h (exec_mapPss_ok hc) rfl
  | mapSss => exact succeedsWriting_of_exec h (exec_mapSss_ok hc) rfl
  | mapPbch => exact succeedsWriting_of_exec h (exec_mapPbch_ok hc) rfl
  | unmapSss => exact succeedsWriting_of_exec h (exec_unmapSss_ok hc) rfl
  | unmapPbch => exact succeedsWriting_of_exec h (exec_unmapPbch_ok hc) rfl
  | ssbGen => exact succeedsWriting_of_exec h (exec_ssbGen_ok hc) rfl

/-- All that a command can change, and which command may change what (R44, R45). -/
theorem exec_frame {i : Instr} {s t : State} (h : exec i s = .next t) :
    t = { s with
      status := { s.status with
        busy := t.status.busy, done := t.status.done, err := t.status.err, errCode := t.status.errCode
        detValid := t.status.detValid, detOvf := t.status.detOvf, peakOob := t.status.peakOob }
      errInfo := t.errInfo, errCmd := t.errCmd, det := t.det, detRes := t.detRes, corr := t.corr
      corrPos := t.corrPos, sssRes := t.sssRes, sssCorr := t.sssCorr, mem := t.mem } ∧
    (i ≠ .detStep → t.detRes = s.detRes ∧ t.corr = s.corr ∧ t.corrPos = s.corrPos ∧
      t.status.detValid = s.status.detValid ∧ t.status.detOvf = s.status.detOvf ∧
      t.status.peakOob = s.status.peakOob) ∧
    ((∀ n, i ≠ .decodeSss n) → t.sssRes = s.sssRes ∧ t.sssCorr = s.sssCorr) ∧
    (i ≠ .detStep → (∀ n, i ≠ .detReset n) → t.det = s.det) := by
  rcases exec_cases h with ⟨e, _, rfl⟩ | hc
  · exact ⟨rfl, fun _ => ⟨rfl, rfl, rfl, rfl, rfl, rfl⟩, fun _ => ⟨rfl, rfl⟩, fun _ _ => rfl⟩
  · cases i with
    | detStep =>
      rw [exec_detStep_ok hc] at h
      injection h with h
      subst h
      have hd := detStep_frame s (s.readSamples s.snap.src0.toNat s.snap.nSc)
      generalize detStep s (s.readSamples s.snap.src0.toNat s.snap.nSc) = u at *
      rw [hd]
      exact ⟨rfl, fun h => absurd rfl h, fun _ => ⟨rfl, rfl⟩, fun h => absurd rfl h⟩
    | decodeSss n =>
      rw [exec_decodeSss_ok hc] at h
      simp only at h
      generalize sssSearch _ _ _ = best at h
      injection h with h
      subst h
      exact ⟨rfl, fun _ => ⟨rfl, rfl, rfl, rfl, rfl, rfl⟩, fun h => absurd rfl (h n), fun _ _ => rfl⟩
    | detReset n =>
      rw [exec_detReset_ok hc] at h
      injection h with h
      subst h
      exact ⟨rfl, fun _ => ⟨rfl, rfl, rfl, rfl, rfl, rfl⟩, fun _ => ⟨rfl, rfl⟩, fun _ h => absurd rfl (h n)⟩
    | _ =>
      have hw : SucceedsWriting s t := exec_succeedsWriting h hc nofun nofun nofun
      rw [SucceedsWriting] at hw
      rw [hw]
      exact ⟨rfl, fun _ => ⟨rfl, rfl, rfl, rfl, rfl, rfl⟩, fun _ => ⟨rfl, rfl⟩, fun _ _ => rfl⟩

end Sys2Proof.Machine
end

