-- ==== Sys2Proof/Laws/Detector.lean ====
section
/-!
SUPPORT. One detector step, in parts (43_correlator.md R213 to R220): how large a sweep's result can be, when a step
triggers, what a trigger leaves, and what collecting a column leaves.
-/

namespace Sys2Proof.Machine

/-! ### The sweep -/

/-- The metric of a bipolar reference of at most 127 entries (R213). -/
theorem metric_corr_le (ref : List Int) (y : List Sample) (sh : Nat) (hlen : ref.length ≤ 127)
    (href : ∀ d ∈ ref, d = 1 ∨ d = -1) : metric (corr ref y sh) ≤ 34636763758592 := by
  have a := bipolar_sum_le ref (y.drop sh) (fun x => x.i) hlen href
  have b := bipolar_sum_le ref (y.drop sh) (fun x => x.q) hlen href
  have : metric (corr ref y sh) ≤ 4161536 ^ 2 + 4161536 ^ 2 :=
    Nat.add_le_add (Nat.pow_le_pow_left a 2) (Nat.pow_le_pow_left b 2)
  norm_num at this
  exact this

/-- How large a sweep's result can be. -/
theorem sweep_bounds (p : Params) (y : List Sample) (n : Nat) :
    (sweep p y n).h ≤ 2 ∧ (sweep p y n).s ≤ n - 127 ∧ (sweep p y n).m ≤ 34636763758592 := by
  by_cases h : n < 127
  · rw [sweep_empty p y n h]
    simp
  · obtain ⟨r, hr, _, h2, l₁, l₂, e, _⟩ := sweep_first_max p y n (by omega)
    rw [hr]
    clear hr
    have hm : (r.h, r.s) ∈ sweepCandidates n := by rw [e]; simp
    rw [mem_sweepCandidates] at hm
    simp only at hm
    refine ⟨by omega, by omega, ?_⟩
    rw [h2]
    exact metric_corr_le _ _ _ (by simp) fun d hd => pss_mem hd

/-! ### The trigger -/

@[simp] theorem State.symbol_length (s : State) : s.symbol.length = 12 * s.snap.cfg.nRb.toNat := by simp [State.symbol]

/-- A sample of the step's symbol (R220). -/
theorem State.symbol_getD (s : State) (i : Nat) (h : i < 12 * s.snap.cfg.nRb.toNat) :
    s.symbol.getD i Sample.zero = Sample.ofWord (s.memRead (s.snap.src0.toNat + 4 * i)) := by
  rw [List.getD_eq_getElem _ _ (by rw [State.symbol_length]; exact h)]
  exact State.readSamples_getElem _ _ _ _ _

/-- A step with legal operands and configuration passes its checks. -/
theorem commandError_detStep {s : State} (h : DetReady s) : commandError .detStep s = none := by
  refine commandError_two ?_ rfl rfl rfl ⟨h.src0, h.dst0, h.apart⟩
  have hw : s.det.windowFits s.snap.nSc = true := (Detector.windowFits_iff _ _).2 h.window
  rw [fieldChecks, Snapshot.nRbLegal_eq, Snapshot.lMaxLegal_eq, check_pass h.nRb, check_pass h.lMax, hw]
  rfl

/-- A step with legal operands and configuration latches, decides and collects (R220). -/
theorem exec_detStep_ready {s : State} (h : DetReady s) :
    exec .detStep s =
      .next (succeedCommand (collectAndEmit (triggerStep (latchSweep s s.sweepResult) s.sweepResult) s.symbol)) :=
  exec_detStep_ok (commandError_detStep h)

theorem State.hits_iff (s : State) : s.sweepResult.hits s.snap.thresh = true ↔ s.Hits := by
  simp [Sweep.hits, State.Hits]

theorem State.fits_iff (s : State) : s.sweepResult.fits s.snap.nSc = true ↔ s.Fits := by
  simp only [Sweep.fits, Bool.and_eq_true, decide_eq_true_eq]
  exact Iff.rfl

/-- The trigger decision after the latch, in terms of the latched state (R216, R217). -/
theorem triggerStep_latch (s : State) (r : Sweep) :
    (r.hits s.snap.thresh = true → r.fits s.snap.nSc = true →
      triggerStep (latchSweep s r) r =
        { latchSweep s r with det := s.det.trigger r s.snap.cfg.lMax.toNat }) ∧
    (¬(r.hits s.snap.thresh = true ∧ r.fits s.snap.nSc = true) →
      triggerStep (latchSweep s r) r = latchSweep s r ∨
        triggerStep (latchSweep s r) r = (latchSweep s r).setPeakOob) := by
  refine ⟨fun h1 h2 => ?_, fun h => ?_⟩
  · have e1 : r.hits (latchSweep s r).snap.thresh = true := h1
    have e2 : r.fits (latchSweep s r).snap.nSc = true := h2
    rw [triggerStep, if_pos e1, if_pos e2]
    rfl
  · rcases triggerStep_cases (latchSweep s r) r with ⟨_, h2⟩ | ⟨_, _, h3⟩ | ⟨h1, h2, _⟩
    · exact .inl h2
    · exact .inr h3
    · exact absurd ⟨h1, h2⟩ h

/-- A triggering step takes the trigger action (R216, R217). -/
theorem triggerStep_of_triggers {s : State} (h : s.Triggers) :
    triggerStep (latchSweep s s.sweepResult) s.sweepResult =
      { latchSweep s s.sweepResult with det := s.det.trigger s.sweepResult s.snap.cfg.lMax.toNat } :=
  (triggerStep_latch s s.sweepResult).1 (s.hits_iff.2 h.1) (s.fits_iff.2 h.2)

/-- A step that does not trigger keeps the detector state up to its collection (R216). -/
theorem triggerStep_of_not_triggers {s : State} (h : ¬ s.Triggers) :
    triggerStep (latchSweep s s.sweepResult) s.sweepResult = latchSweep s s.sweepResult ∨
      triggerStep (latchSweep s s.sweepResult) s.sweepResult = (latchSweep s s.sweepResult).setPeakOob :=
  (triggerStep_latch s s.sweepResult).2 fun hh => h ⟨s.hits_iff.1 hh.1, s.fits_iff.1 hh.2⟩

/-- A threshold above every metric is never reached (R29, R213). -/
theorem State.not_triggers_of_thresh (s : State) (h : 34636763758592 < s.snap.thresh.toNat) : ¬ s.Triggers := by
  intro ht
  have h1 : s.snap.thresh.toNat ≤ s.sweepResult.m := ht.1.2
  have h2 : s.sweepResult.m ≤ 34636763758592 := (sweep_bounds _ _ _).2.2
  omega

/-- The running counter stays below `L` (R217). -/
theorem nextIssb_lt (r : Srem) (i l : Nat) (h : 1 ≤ l) : nextIssb r i l < l := by
  have key : ∀ z : Int, ((z + 1) % (l : Int)).toNat < l := fun z => by
    have h1 := Int.emod_lt_of_pos (z + 1) (show (0 : Int) < l by omega)
    have h2 := Int.emod_nonneg (z + 1) (show (l : Int) ≠ 0 by omega)
    omega
  cases r <;> (unfold nextIssb; exact key _)

/-- What a trigger leaves in the detector (R217). -/
theorem Detector.trigger_spec {s : State} (h : s.Triggers) (hr : DetReady s) :
    (s.det.trigger s.sweepResult s.snap.cfg.lMax.toNat).srem = .collecting 3 ∧
      (s.det.trigger s.sweepResult s.snap.cfg.lMax.toNat).nid2.toNat = s.sweepResult.h ∧
      (s.det.trigger s.sweepResult s.snap.cfg.lMax.toNat).kssb.toNat = s.sweepResult.s - 56 ∧
      (s.det.trigger s.sweepResult s.snap.cfg.lMax.toNat).issb.toNat =
        nextIssb s.det.srem s.det.issb.toNat s.snap.cfg.lMax.toNat ∧
      (s.det.trigger s.sweepResult s.snap.cfg.lMax.toNat).buf = s.det.buf ∧
      (s.det.trigger s.sweepResult s.snap.cfg.lMax.toNat).kssb.toNat + 240 ≤ 12 * s.snap.cfg.nRb.toNat := by
  have hb := sweep_bounds s.params s.symbol (12 * s.snap.cfg.nRb.toNat)
  have hb1 : s.sweepResult.h ≤ 2 := hb.1
  have hb2 : s.sweepResult.s ≤ 12 * s.snap.cfg.nRb.toNat - 127 := hb.2.1
  have h275 := hr.nRb.2
  have h64 := hr.lMax.2
  have hlt := nextIssb_lt s.det.srem s.det.issb.toNat _ hr.lMax.1
  have hf : s.sweepResult.s - 56 + 240 ≤ 12 * s.snap.cfg.nRb.toNat := h.2.2
  generalize s.sweepResult = r at *
  refine ⟨rfl, ?_, ?_, ?_, rfl, ?_⟩ <;> simp only [Detector.trigger, BitVec.toNat_ofNat] <;>
    rw [Nat.mod_eq_of_lt (by omega)]
  exact hf

/-! ### Collection -/

/-- What collecting a symbol leaves (R218): one more column, and SREM counted down. -/
theorem Detector.collect_spec (d : Detector) (y : List Sample) (k : Fin 4) (hs : d.srem = .collecting k)
    (hb : d.buf.length = 960) (hy : d.kssb.toNat + 240 ≤ y.length) :
    d.collect y =
        { d with buf := setColumn d.buf (3 - k.val) ((y.drop d.kssb.toNat).take 240), srem := Srem.pred k } ∧
      (d.collect y).buf.length = 960 ∧
      (∀ j, j < 240 → (d.collect y).bufAt j (3 - k.val) = y.getD (d.kssb.toNat + j) Sample.zero) ∧
      ∀ j c, j < 240 → c < 4 → c ≠ 3 - k.val → (d.collect y).bufAt j c = d.bufAt j c := by
  have e : d.collect y =
      { d with buf := setColumn d.buf (3 - k.val) ((y.drop d.kssb.toNat).take 240), srem := Srem.pred k } := by
    simp only [Detector.collect, hs]
  have hw : ((y.drop d.kssb.toNat).take 240).length = 240 := by
    simp only [List.length_take, List.length_drop]
    omega
  have ht : (d.buf.take (240 * (3 - k.val))).length = 240 * (3 - k.val) := by
    simp only [List.length_take, hb]
    omega
  refine ⟨e, ?_, ?_, ?_⟩
  · rw [e]
    exact setColumn_length _ _ _ hb (by omega) hw
  · intro j hj
    rw [e]
    simp only [Detector.bufAt, setColumn, List.getD_eq_getElem?_getD]
    rw [List.append_assoc, List.getElem?_append_right (by omega), ht, List.getElem?_append_left (by omega)]
    simp only [List.getElem?_take, List.getElem?_drop]
    rw [if_pos (by omega)]
    congr 2
    omega
  · intro j c hj hc hne
    rw [e]
    simp only [Detector.bufAt, setColumn, List.getD_eq_getElem?_getD]
    by_cases hlt : c < 3 - k.val
    · rw [List.append_assoc, List.getElem?_append_left (by omega), List.getElem?_take, if_pos (by omega)]
    · rw [List.append_assoc, List.getElem?_append_right (by omega), ht, List.getElem?_append_right (by omega), hw,
        List.getElem?_drop,
        show 240 * (3 - k.val) + 240 + (240 * c + j - 240 * (3 - k.val) - 240) = 240 * c + j by omega]

/-- A collection in progress keeps its candidate and its counter, whether or not it emits. -/
theorem collectAndEmit_det (s : State) (y : List Sample) : (collectAndEmit s y).det = s.det.collect y := by
  rcases collectAndEmit_cases s y with ⟨h, e⟩ | ⟨_, _, _, e⟩ | ⟨_, e⟩ <;> rw [e]
  · simp only [Detector.collect, h]
  · rfl

end Sys2Proof.Machine
end

