-- ==== Sys2Proof/Laws/Host.lean ====
section
/-!
SUPPORT. What the host's moves, the soft reset and a race can do (10_state.md R39, 70_reset_and_hazards.md R291, R292,
20_memory.md R72).
-/

namespace Sys2Proof.Machine

/-! ### The register window -/

/-- An aligned 32-bit access inside the window is an access to the register at its offset (R21, R39). -/
theorem windowAccess_register (base off : Nat) (hb : base % 0x100 = 0) (ho : off % 4 = 0) (hlt : off + 4 ≤ 0x100) :
    windowAccess base (base + off) 4 = .register off := by
  rw [windowAccess, if_neg (by omega), if_pos ⟨rfl, by omega, by omega⟩, Nat.add_sub_cancel_left]

/-- A host write to a register of the window. -/
theorem hostRegWrite_register (s : State) (off : Nat) (v : Word) (hb : s.params.mmioBase % 0x100 = 0)
    (ho : off % 4 = 0) (hlt : off + 4 ≤ 0x100) :
    hostRegWrite s (s.params.mmioBase + off) 4 v = .next (s.writeReg off v) := by
  rw [hostRegWrite, windowAccess_register _ _ hb ho hlt]

/-! ### The bits of the register views -/

/-- The bits of `STATUS` (R23). -/
theorem Status.word_getLsbD (t : Status) (b : Nat) (hb : b < 32) :
    t.word.getLsbD b =
      if b = 0 then t.busy else if b = 1 then t.done else if b = 2 then t.err else if b = 3 then t.detValid
      else if b = 4 then t.ovr else if b = 5 then t.peakOob else if b = 6 then t.detOvf
      else if 8 ≤ b ∧ b ≤ 11 then t.errCode.getLsbD (b - 8) else false := by
  unfold Status.word
  change BitVec.getLsbD (w := 20 + 4 + 1 + 1 + 1 + 1 + 1 + 1 + 1 + 1) _ _ = _
  simp only [BitVec.getLsbD_append, BitVec.getLsbD_ofBool]
  interval_cases b <;> simp

/-- The bits of `CTRL` (R22). -/
theorem Ctrl.word_getLsbD (c : Ctrl) (b : Nat) (hb : b < 32) :
    c.word.getLsbD b =
      if b = 0 then c.ieDone else if b = 1 then c.ieErr else if b = 2 then c.ieDet else if b = 3 then c.ieWarn
      else false := by
  unfold Ctrl.word
  change BitVec.getLsbD (w := 28 + 1 + 1 + 1 + 1) _ _ = _
  simp only [BitVec.getLsbD_append, BitVec.getLsbD_ofBool]
  interval_cases b <;> simp

/-- The bits of `CFG` (R28). -/
theorem Cfg.word_getLsbD (c : Cfg) (b : Nat) (hb : b < 32) :
    c.word.getLsbD b =
      if b < 9 then c.nRb.getLsbD b else if b < 16 then false else if b < 19 then c.mu.getLsbD (b - 16)
      else if b < 24 then false else if b < 31 then c.lMax.getLsbD (b - 24) else false := by
  unfold Cfg.word
  change BitVec.getLsbD (w := 1 + 7 + 5 + 3 + 7 + 9) _ _ = _
  simp only [BitVec.getLsbD_append]
  interval_cases b <;> simp

/-! ### Words that take any value -/

/-- Words that take any value change DMEM and the count of used free values alone. -/
theorem havocWords_frame (s : State) (start words : Nat) :
    havocWords s start words =
      { s with mem := (havocWords s start words).mem, freeCtr := (havocWords s start words).freeCtr } := rfl

theorem freeBytes_length (n k : Nat) : (freeBytes n k).length = k := by simp [freeBytes]

/-- A byte outside the words reads as before. -/
theorem havocWords_byteAt (s : State) (start words x : Nat) (h : x < start ∨ start + 4 * words ≤ x) :
    (havocWords s start words).byteAt x = s.byteAt x := by
  have hx : ¬(start ≤ x ∧ x < start + (min (start + 4 * words) s.params.dmemSize - start)) := by omega
  simp only [havocWords, State.byteAt, State.writeBytes, Memory.byte?_writeBytes, freeBytes_length, if_neg hx]

theorem havocWords_wf (s : State) (start words : Nat) (h : s.mem.wf) : (havocWords s start words).mem.wf :=
  Memory.wf_writeBytes h _ _

theorem havocWords_inside (s : State) (start words : Nat) (h : ∀ c ∈ s.mem, c.1 < s.params.dmemSize) :
    ∀ c ∈ (havocWords s start words).mem, c.1 < s.params.dmemSize := by
  intro c hc
  rcases Memory.mem_writeBytes hc with hc | ⟨h1, h2⟩
  · exact h c hc
  · rw [freeBytes_length] at h2
    omega

/-- Several spans of words take any value. -/
def havocSpans (s : State) (l : List (Nat × Nat)) : State := l.foldl (fun u x => havocWords u x.1 x.2) s

theorem havocSpans_frame (s : State) (l : List (Nat × Nat)) :
    havocSpans s l = { s with mem := (havocSpans s l).mem, freeCtr := (havocSpans s l).freeCtr } := by
  induction l generalizing s with
  | nil => rfl
  | cons x l ih =>
    have h1 := ih (havocWords s x.1 x.2)
    have h2 : havocSpans s (x :: l) = havocSpans (havocWords s x.1 x.2) l := rfl
    rw [h2]
    generalize havocSpans (havocWords s x.1 x.2) l = t at *
    rw [h1]
    rfl

theorem havocSpans_byteAt (s : State) (l : List (Nat × Nat)) (x : Nat)
    (h : ∀ r ∈ l, x < r.1 ∨ r.1 + 4 * r.2 ≤ x) : (havocSpans s l).byteAt x = s.byteAt x := by
  induction l generalizing s with
  | nil => rfl
  | cons r l ih =>
    exact (ih (havocWords s r.1 r.2) fun r' hr => h r' (List.mem_cons_of_mem _ hr)).trans
      (havocWords_byteAt s r.1 r.2 x (h r (List.mem_cons_self ..)))

theorem havocSpans_mem (s : State) (l : List (Nat × Nat)) (hw : s.mem.wf)
    (hi : ∀ c ∈ s.mem, c.1 < s.params.dmemSize) :
    (havocSpans s l).mem.wf ∧ ∀ c ∈ (havocSpans s l).mem, c.1 < s.params.dmemSize := by
  induction l generalizing s with
  | nil => exact ⟨hw, hi⟩
  | cons r l ih => exact ih (havocWords s r.1 r.2) (havocWords_wf s _ _ hw) (havocWords_inside s _ _ hi)

/-- The W regions of the pending command take any value (R291). -/
theorem havocPending_eq (s : State) :
    havocPending s =
      havocSpans s ((s.pendingRegions.filter fun r => r.op.isDst).map fun r => (r.start, r.words)) := by
  rw [havocPending, havocSpans, List.foldl_map]

/-! ### Races -/

/-- Result registers that take any value change nothing else but the count of used free values. -/
theorem havocResults_frame (i : Instr) (t : State) :
    havocResults i t = { t with
      corr := (havocResults i t).corr
      corrPos := (havocResults i t).corrPos
      detRes := (havocResults i t).detRes
      sssRes := (havocResults i t).sssRes
      sssCorr := (havocResults i t).sssCorr
      freeCtr := (havocResults i t).freeCtr } := by
  cases i <;> rfl

/-- Each result register takes any value only from its own command. -/
theorem havocResults_of_ne (i : Instr) (t : State) :
    (i ≠ .detStep → (havocResults i t).detRes = t.detRes ∧ (havocResults i t).corr = t.corr ∧
      (havocResults i t).corrPos = t.corrPos) ∧
    ((∀ n, i ≠ .decodeSss n) → (havocResults i t).sssRes = t.sssRes ∧ (havocResults i t).sssCorr = t.sssCorr) := by
  cases i with
  | detStep => exact ⟨fun h => absurd rfl h, fun _ => ⟨rfl, rfl⟩⟩
  | decodeSss n => exact ⟨fun _ => ⟨rfl, rfl, rfl⟩, fun h => absurd rfl (h n)⟩
  | _ => exact ⟨fun _ => ⟨rfl, rfl, rfl⟩, fun _ => ⟨rfl, rfl⟩⟩

/-- All that settling a race can do: nothing, or free values in the outputs. -/
theorem settleRace_cases (i : Instr) (s t : State) :
    settleRace i s t = t ∨
      (s.raced = true ∧ commandError i s = none ∧
        settleRace i s t = havocSpans (havocResults i t) (outputSpans i s.snap)) := by
  unfold settleRace
  cases hr : s.raced with
  | false => exact .inl rfl
  | true =>
    cases hc : commandError i s with
    | some e => exact .inl rfl
    | none => exact .inr ⟨rfl, rfl, rfl⟩

theorem settleRace_of_not_raced (i : Instr) (s t : State) (h : s.raced = false) : settleRace i s t = t := by
  rw [settleRace, h]
  rfl

/-- Settling a race changes DMEM, the result registers and the count of used free values alone. -/
theorem settleRace_frame (i : Instr) (s t : State) :
    settleRace i s t = { t with
      corr := (settleRace i s t).corr
      corrPos := (settleRace i s t).corrPos
      detRes := (settleRace i s t).detRes
      sssRes := (settleRace i s t).sssRes
      sssCorr := (settleRace i s t).sssCorr
      mem := (settleRace i s t).mem
      freeCtr := (settleRace i s t).freeCtr } := by
  rcases settleRace_cases i s t with h | ⟨_, _, h⟩
  · rw [h]
  · have h1 := havocSpans_frame (havocResults i t) (outputSpans i s.snap)
    have h2 := havocResults_frame i t
    rw [← h] at h1
    generalize settleRace i s t = u at *
    generalize havocResults i t = v at *
    rw [h1, h2]

end Sys2Proof.Machine
end

