-- ==== Sys2Proof/Laws/PerInstr.lean ====
section
/-!
SUPPORT. A law per command: its opcode fills exactly the low byte of its word and its fields lie above it (30_encoding.md
R90, R92, R99).
-/

/-- The opcode fits the low byte, the fields start at bit 8, and a well-formed command's word fits 32 bits. -/
def Sys2Proof.Laws.FieldsAboveOpcode.Statement (i : Sys2Proof.Instr) : Prop :=
  Sys2Proof.opcodeOf i < 2 ^ 8 ∧ Sys2Proof.fieldsOf i % 2 ^ 8 = 0 ∧
    (Sys2Proof.WellFormed i = true → Sys2Proof.opcodeOf i + Sys2Proof.fieldsOf i < 2 ^ 32)

theorem Sys2Proof.Laws.FieldsAboveOpcode.nop : Sys2Proof.Laws.FieldsAboveOpcode.Statement .nop := by
  unfold Sys2Proof.Laws.FieldsAboveOpcode.Statement
  decide

theorem Sys2Proof.Laws.FieldsAboveOpcode.prsg : Sys2Proof.Laws.FieldsAboveOpcode.Statement .prsg := by
  unfold Sys2Proof.Laws.FieldsAboveOpcode.Statement
  decide

theorem Sys2Proof.Laws.FieldsAboveOpcode.pssGen (nid2 : Nat) :
    Sys2Proof.Laws.FieldsAboveOpcode.Statement (.pssGen nid2) := by
  refine ⟨by simp only [Sys2Proof.opcodeOf]; omega, by simp only [Sys2Proof.fieldsOf]; omega, fun h => ?_⟩
  simp only [Sys2Proof.WellFormed, decide_eq_true_eq] at h
  simp only [Sys2Proof.opcodeOf, Sys2Proof.fieldsOf]
  omega

theorem Sys2Proof.Laws.FieldsAboveOpcode.sssGen (nid1 nid2 : Nat) :
    Sys2Proof.Laws.FieldsAboveOpcode.Statement (.sssGen nid1 nid2) := by
  refine ⟨by simp only [Sys2Proof.opcodeOf]; omega, by simp only [Sys2Proof.fieldsOf]; omega, fun h => ?_⟩
  simp only [Sys2Proof.WellFormed, Bool.and_eq_true, decide_eq_true_eq] at h
  simp only [Sys2Proof.opcodeOf, Sys2Proof.fieldsOf]
  omega

theorem Sys2Proof.Laws.FieldsAboveOpcode.dmrsGen (ncell issb nhf : Nat) :
    Sys2Proof.Laws.FieldsAboveOpcode.Statement (.dmrsGen ncell issb nhf) := by
  refine ⟨by simp only [Sys2Proof.opcodeOf]; omega, by simp only [Sys2Proof.fieldsOf]; omega, fun h => ?_⟩
  simp only [Sys2Proof.WellFormed, Bool.and_eq_true, decide_eq_true_eq] at h
  simp only [Sys2Proof.opcodeOf, Sys2Proof.fieldsOf]
  omega

theorem Sys2Proof.Laws.FieldsAboveOpcode.qpskMod : Sys2Proof.Laws.FieldsAboveOpcode.Statement .qpskMod := by
  unfold Sys2Proof.Laws.FieldsAboveOpcode.Statement
  decide

theorem Sys2Proof.Laws.FieldsAboveOpcode.qpskDemod : Sys2Proof.Laws.FieldsAboveOpcode.Statement .qpskDemod := by
  unfold Sys2Proof.Laws.FieldsAboveOpcode.Statement
  decide

theorem Sys2Proof.Laws.FieldsAboveOpcode.mapPss : Sys2Proof.Laws.FieldsAboveOpcode.Statement .mapPss := by
  unfold Sys2Proof.Laws.FieldsAboveOpcode.Statement
  decide

theorem Sys2Proof.Laws.FieldsAboveOpcode.mapSss : Sys2Proof.Laws.FieldsAboveOpcode.Statement .mapSss := by
  unfold Sys2Proof.Laws.FieldsAboveOpcode.Statement
  decide

theorem Sys2Proof.Laws.FieldsAboveOpcode.mapPbch (nu : Nat) :
    Sys2Proof.Laws.FieldsAboveOpcode.Statement (.mapPbch nu) := by
  refine ⟨by simp only [Sys2Proof.opcodeOf]; omega, by simp only [Sys2Proof.fieldsOf]; omega, fun h => ?_⟩
  simp only [Sys2Proof.WellFormed, decide_eq_true_eq] at h
  simp only [Sys2Proof.opcodeOf, Sys2Proof.fieldsOf]
  omega

theorem Sys2Proof.Laws.FieldsAboveOpcode.unmapSss : Sys2Proof.Laws.FieldsAboveOpcode.Statement .unmapSss := by
  unfold Sys2Proof.Laws.FieldsAboveOpcode.Statement
  decide

theorem Sys2Proof.Laws.FieldsAboveOpcode.unmapPbch (nu : Nat) :
    Sys2Proof.Laws.FieldsAboveOpcode.Statement (.unmapPbch nu) := by
  refine ⟨by simp only [Sys2Proof.opcodeOf]; omega, by simp only [Sys2Proof.fieldsOf]; omega, fun h => ?_⟩
  simp only [Sys2Proof.WellFormed, decide_eq_true_eq] at h
  simp only [Sys2Proof.opcodeOf, Sys2Proof.fieldsOf]
  omega

theorem Sys2Proof.Laws.FieldsAboveOpcode.ssbGen (nid1 nid2 issb nhf : Nat) :
    Sys2Proof.Laws.FieldsAboveOpcode.Statement (.ssbGen nid1 nid2 issb nhf) := by
  refine ⟨by simp only [Sys2Proof.opcodeOf]; omega, by simp only [Sys2Proof.fieldsOf]; omega, fun h => ?_⟩
  simp only [Sys2Proof.WellFormed, Bool.and_eq_true, decide_eq_true_eq] at h
  simp only [Sys2Proof.opcodeOf, Sys2Proof.fieldsOf]
  omega

theorem Sys2Proof.Laws.FieldsAboveOpcode.mapSsb (koff loff : Nat) :
    Sys2Proof.Laws.FieldsAboveOpcode.Statement (.mapSsb koff loff) := by
  refine ⟨by simp only [Sys2Proof.opcodeOf]; omega, by simp only [Sys2Proof.fieldsOf]; omega, fun h => ?_⟩
  simp only [Sys2Proof.WellFormed, Bool.and_eq_true, decide_eq_true_eq] at h
  simp only [Sys2Proof.opcodeOf, Sys2Proof.fieldsOf]
  omega

theorem Sys2Proof.Laws.FieldsAboveOpcode.detReset (issb : Nat) :
    Sys2Proof.Laws.FieldsAboveOpcode.Statement (.detReset issb) := by
  refine ⟨by simp only [Sys2Proof.opcodeOf]; omega, by simp only [Sys2Proof.fieldsOf]; omega, fun h => ?_⟩
  simp only [Sys2Proof.WellFormed, decide_eq_true_eq] at h
  simp only [Sys2Proof.opcodeOf, Sys2Proof.fieldsOf]
  omega

theorem Sys2Proof.Laws.FieldsAboveOpcode.detStep : Sys2Proof.Laws.FieldsAboveOpcode.Statement .detStep := by
  unfold Sys2Proof.Laws.FieldsAboveOpcode.Statement
  decide

theorem Sys2Proof.Laws.FieldsAboveOpcode.decodeSss (nid2 : Nat) :
    Sys2Proof.Laws.FieldsAboveOpcode.Statement (.decodeSss nid2) := by
  refine ⟨by simp only [Sys2Proof.opcodeOf]; omega, by simp only [Sys2Proof.fieldsOf]; omega, fun h => ?_⟩
  simp only [Sys2Proof.WellFormed, decide_eq_true_eq] at h
  simp only [Sys2Proof.opcodeOf, Sys2Proof.fieldsOf]
  omega
end

