-- ==== Sys2Proof/Laws/Recurrence.lean ====
section
/-!
SUPPORT. The generated sequences in terms of the source's recurrences (40_seqgen.md R122 to R132), and the demodulator's
bits (41_modulator.md R154).
-/

namespace Sys2Proof.Machine

/-- The first Gold recurrence determines its sequence (R122, R123). -/
theorem gold1_unique {x y : Nat → Bool} (hx : IsGoldX1 x) (hy : IsGoldX1 y) : ∀ i, x i = y i := by
  intro i
  induction i using Nat.strong_induction_on with
  | _ i ih =>
    obtain ⟨h0, h1, h2⟩ := hx
    obtain ⟨g0, g1, g2⟩ := hy
    by_cases hi : i < 31
    · rcases Nat.eq_zero_or_pos i with rfl | hp
      · rw [h0, g0]
      · rw [h1 i hp hi, g1 i hp hi]
    · obtain ⟨k, rfl⟩ : ∃ k, i = k + 31 := ⟨i - 31, by omega⟩
      rw [h2, g2, ih (k+3) (by omega), ih k (by omega)]

/-- The second Gold recurrence determines its sequence (R122, R123). -/
theorem gold2_unique {c} {x y : Nat → Bool} (hx : IsGoldX2 c x) (hy : IsGoldX2 c y) : ∀ i, x i = y i := by
  intro i
  induction i using Nat.strong_induction_on with
  | _ i ih =>
    obtain ⟨h1, h2⟩ := hx
    obtain ⟨g1, g2⟩ := hy
    by_cases hi : i < 31
    · rw [h1 i hi, g1 i hi]
    · obtain ⟨k, rfl⟩ : ∃ k, i = k + 31 := ⟨i - 31, by omega⟩
      rw [h2, g2, ih (k+3) (by omega), ih (k+2) (by omega), ih (k+1) (by omega), ih k (by omega)]

/-- The first shift register puts out the first Gold sequence. -/
theorem isGoldX1_shiftSeq : IsGoldX1 (shiftSeq goldFb1 1#31) := by
  refine ⟨by rw [shiftSeq_seed _ _ _ (by omega)]; decide, ?_, goldSeq1_next _⟩
  intro i h1 h2
  rw [shiftSeq_seed _ _ _ (by omega)]
  revert h1 h2; revert i
  decide

/-- The second shift register puts out the second Gold sequence. -/
theorem isGoldX2_shiftSeq (c : Nat) : IsGoldX2 c (shiftSeq goldFb2 (BitVec.ofNat 31 c)) := by
  refine ⟨?_, goldSeq2_next _⟩
  intro i h
  rw [shiftSeq_seed _ _ _ (by omega)]
  exact (BitVec.getLsbD_ofNat ..).trans (by simp [h])

/-- A bit of PRSG in terms of any sequences that follow the recurrences (R124). -/
theorem prsg_getD (n : Nat) (c : Nat) (x1 x2 : Nat → Bool) (h1 : IsGoldX1 x1) (h2 : IsGoldX2 c x2) (i : Nat) :
    (prsg n (BitVec.ofNat 31 c)).getD i false = if i < n then (x1 (i + 1600) ^^ x2 (i + 1600)) else false := by
  by_cases h : i < n
  · rw [if_pos h, List.getD_eq_getElem _ _ (by simpa using h), prsg_getElem, gold1_unique h1 isGoldX1_shiftSeq,
      gold2_unique h2 (isGoldX2_shiftSeq c), Nat.add_comm]
  · rw [if_neg h, List.getD_eq_default _ _ (by simp; omega)]

/-- An M-sequence of the recurrence `x[i+7] = x[i+4] ^ x[i]` is the register's. -/
theorem mseq4_get {seed : BitVec 7} {x : Nat → Bool} (h : IsMseq4 seed x) (i : Nat) (hi : i < 127) :
    x i = (shiftBits mseqFb4 127 seed).getD i false := by
  rw [shiftBits_getD _ _ _ _ hi]
  induction i using Nat.strong_induction_on with
  | _ i ih =>
    by_cases h7 : i < 7
    · rw [h.1 i h7, shiftSeq_seed _ _ _ (by omega)]
    · obtain ⟨k, rfl⟩ : ∃ k, i = k + 7 := ⟨i - 7, by omega⟩
      rw [h.2 k (by omega), mseq4_next, ih (k+4) (by omega) (by omega), ih k (by omega) (by omega)]

/-- An M-sequence of the recurrence `x[i+7] = x[i+1] ^ x[i]` is the register's. -/
theorem mseq1_get {seed : BitVec 7} {x : Nat → Bool} (h : IsMseq1 seed x) (i : Nat) (hi : i < 127) :
    x i = (shiftBits mseqFb1 127 seed).getD i false := by
  rw [shiftBits_getD _ _ _ _ hi]
  induction i using Nat.strong_induction_on with
  | _ i ih =>
    by_cases h7 : i < 7
    · rw [h.1 i h7, shiftSeq_seed _ _ _ (by omega)]
    · obtain ⟨k, rfl⟩ : ∃ k, i = k + 7 := ⟨i - 7, by omega⟩
      rw [h.2 k (by omega), mseq1_next, ih (k+1) (by omega) (by omega), ih k (by omega) (by omega)]

/-- An entry of PSS in terms of any sequence that follows the recurrence (R128). -/
theorem pss_getElem (p : Params) (nid2 : Nat) (x : Nat → Bool) (h : IsMseq4 p.pssSeed x) (n : Nat) (hn : n < (pss p nid2).length) :
    (pss p nid2)[n] = sign (x ((n + 43 * nid2) % 127)) := by
  simp only [pss, shiftedSigns_getElem, pssBits]
  rw [mseq4_get h _ (Nat.mod_lt _ (by omega))]

/-- The word of a QPSK symbol (R151). -/
theorem qpsk_word_eq (b0 b1 : Bool) : (qpsk b0 b1).word = qpskWord b0 b1 := by
  cases b0 <;> cases b1 <;> decide

/-- A bit of a sequence made of pairs. -/
theorem flatMap_pairs_getD {α : Type} (f : α → List Bool) (hf : ∀ x, (f x).length = 2) (l : List α) (i : Nat) (h : i / 2 < l.length) :
    (l.flatMap f).getD i false = (f l[i / 2]).getD (i % 2) false := by
  induction l generalizing i with
  | nil => simp at h
  | cons a l ih =>
    rw [List.flatMap_cons]
    by_cases hi : i < 2
    · rw [List.getD_append _ _ _ _ (by rw [hf]; exact hi)]
      have : i / 2 = 0 := by omega
      have h2 : i % 2 = i := by omega
      simp [this, h2]
    · rw [List.getD_append_right _ _ _ _ (by rw [hf]; omega), hf, ih (i - 2) (by simp at h; omega)]
      have h1 : i / 2 = (i - 2) / 2 + 1 := by omega
      have h2 : (i - 2) % 2 = i % 2 := by omega
      simp [h1, h2]

/-- A sequence made of pairs has twice the length. -/
theorem flatMap_pairs_length {α : Type} (f : α → List Bool) (hf : ∀ x, (f x).length = 2) (l : List α) : (l.flatMap f).length = 2 * l.length := by
  induction l with
  | nil => rfl
  | cons a l ih => simp [ih, hf]; omega

/-- The bits of a demodulated word are its sign bits (R154). -/
theorem demod_ofWord (w : Word) (r : Nat) (hr : r < 2) :
    (demod (Sample.ofWord w)).getD r false = w.getLsbD (if r = 0 then 15 else 31) := by
  have h : r = 0 ∨ r = 1 := by omega
  rcases h with rfl | rfl
  · simp [demod, Sample.ofWord, BitVec.slt_zero_eq_msb, BitVec.msb_eq_getLsbD_last]
  · simp [demod, Sample.ofWord, BitVec.slt_zero_eq_msb, BitVec.msb_eq_getLsbD_last]

/-- The SSS's first M-sequence, from the register. -/
theorem isMseq4_shiftSeq (seed : BitVec 7) : IsMseq4 seed (shiftSeq mseqFb4 seed) :=
  ⟨fun i hi => shiftSeq_seed _ _ _ (by omega), fun i _ => mseq4_next seed i⟩

/-- The SSS's second M-sequence, from the register. -/
theorem isMseq1_shiftSeq (seed : BitVec 7) : IsMseq1 seed (shiftSeq mseqFb1 seed) :=
  ⟨fun i hi => shiftSeq_seed _ _ _ (by omega), fun i _ => mseq1_next seed i⟩

end Sys2Proof.Machine
end

