-- ==== Sys2Proof/Tests/Slice0.lean ====
section
/-!
SUPPORT. The model's own tests: the well-formedness smoke tests, words decoded and encoded, and single steps whose expected
results are the spec's vectors (95_test_vectors.md) or worked out by hand from its rules; and, for every statement with
hypotheses, a witness that meets them together.
-/

namespace Sys2Proof.Tests

open Sys2Proof Sys2Proof.Machine

/-! ### Well-formedness: one ill-formed command for each check (R90, R91) -/

theorem test_wf_pssGen : WellFormed (.pssGen 4) = false ∧ WellFormed (.pssGen 3) = true := by decide
theorem test_wf_sssGen_nid1 : WellFormed (.sssGen 512 0) = false ∧ WellFormed (.sssGen 511 3) = true := by decide
theorem test_wf_sssGen_nid2 : WellFormed (.sssGen 0 4) = false := by decide
theorem test_wf_dmrsGen_ncell : WellFormed (.dmrsGen 1024 0 0) = false ∧ WellFormed (.dmrsGen 1023 63 1) = true := by
  decide
theorem test_wf_dmrsGen_issb : WellFormed (.dmrsGen 0 64 0) = false := by decide
theorem test_wf_dmrsGen_nhf : WellFormed (.dmrsGen 0 0 2) = false := by decide
theorem test_wf_mapPbch : WellFormed (.mapPbch 4) = false ∧ WellFormed (.mapPbch 3) = true := by decide
theorem test_wf_unmapPbch : WellFormed (.unmapPbch 4) = false ∧ WellFormed (.unmapPbch 3) = true := by decide
theorem test_wf_ssbGen_nid1 : WellFormed (.ssbGen 512 0 0 0) = false ∧ WellFormed (.ssbGen 511 3 63 1) = true := by
  decide
theorem test_wf_ssbGen_nid2 : WellFormed (.ssbGen 0 4 0 0) = false := by decide
theorem test_wf_ssbGen_issb : WellFormed (.ssbGen 0 0 64 0) = false := by decide
theorem test_wf_ssbGen_nhf : WellFormed (.ssbGen 0 0 0 2) = false := by decide
theorem test_wf_mapSsb_koff : WellFormed (.mapSsb 4096 0) = false ∧ WellFormed (.mapSsb 4095 4095) = true := by decide
theorem test_wf_mapSsb_loff : WellFormed (.mapSsb 0 4096) = false := by decide
theorem test_wf_detReset : WellFormed (.detReset 64) = false ∧ WellFormed (.detReset 63) = true := by decide
theorem test_wf_decodeSss : WellFormed (.decodeSss 4) = false ∧ WellFormed (.decodeSss 3) = true := by decide

/-! ### Decoding: words written out from the formats of R90 and the opcodes of R92, R100's examples among them -/

theorem test_decode_nop : decode 0x00000000#32 = .instr .nop := by decide
theorem test_decode_prsg : decode 0x00000001#32 = .instr .prsg := by decide
-- format T: opcode 0x02, F2 (bits 9:8) = 01
theorem test_decode_pssGen : decode 0b00000000000000000000000100000010#32 = .instr (.pssGen 1) := by decide
-- format S: F1 (bits 16:8) = 101001111, F2 (bits 18:17) = 10
theorem test_decode_sssGen : decode 0b00000000000001010100111100000011#32 = .instr (.sssGen 335 2) := by decide
-- format D: NCELL (bits 17:8) = 1111101111, ISSB (bits 23:18) = 000111, NHF (bit 24) = 1
theorem test_decode_dmrsGen : decode 0b00000001000111111110111100000100#32 = .instr (.dmrsGen 1007 7 1) := by decide
theorem test_decode_qpskMod : decode 0x00000010#32 = .instr .qpskMod := by decide
theorem test_decode_qpskDemod : decode 0x00000011#32 = .instr .qpskDemod := by decide
theorem test_decode_mapPss : decode 0x00000020#32 = .instr .mapPss := by decide
theorem test_decode_mapSss : decode 0x00000021#32 = .instr .mapSss := by decide
theorem test_decode_mapPbch : decode 0b00000000000000000000001000100010#32 = .instr (.mapPbch 2) := by decide
theorem test_decode_unmapSss : decode 0x00000023#32 = .instr .unmapSss := by decide
theorem test_decode_unmapPbch : decode 0b00000000000000000000001100100100#32 = .instr (.unmapPbch 3) := by decide
-- format G: NID1 (bits 16:8) = 000000101, NID2 (bits 18:17) = 01, ISSB (bits 24:19) = 100001, NHF (bit 25) = 1
theorem test_decode_ssbGen : decode 0b00000011000010100000010100100101#32 = .instr (.ssbGen 5 1 33 1) := by decide
-- format M: KOFF (bits 19:8) = 000000001100, LOFF (bits 31:20) = 000000001000
theorem test_decode_mapSsb : decode 0b00000000100000000000110000100110#32 = .instr (.mapSsb 12 8) := by decide
-- format R: ISSB (bits 13:8) = 000111
theorem test_decode_detReset : decode 0b00000000000000000000011100110000#32 = .instr (.detReset 7) := by decide
theorem test_decode_detStep : decode 0x00000031#32 = .instr .detStep := by decide
theorem test_decode_decodeSss : decode 0x00000132#32 = .instr (.decodeSss 1) := by decide
-- R93: 0x05 is reserved; R94: bit 10 of a format T word must be zero; R95: an out-of-range field decodes
theorem test_decode_reserved : decode 0x00000005#32 = .illegal .reservedOpcode := by decide
theorem test_decode_mustBeZero : decode 0x00000402#32 = .illegal .mustBeZero := by decide
theorem test_decode_out_of_range_field : decode 0x00000302#32 = .instr (.pssGen 3) := by decide
theorem test_encode_mapSsb : encode (.mapSsb 60 136) = some 0x08803C26#32 := by decide
theorem test_encode_dmrsGen : encode (.dmrsGen 500 13 1) = some 0x0135F404#32 := by decide
theorem test_encode_ill_formed : encode (.pssGen 4) = none := by decide

/-! ### States for the tests -/

/-- A snapshot of the command word `w`: SRC0 = 0x1000, SRC1 = 0x8000, DST0 = 0x2000, DST1 = 0x6000, LEN = 64, CINIT = 1,
N_RB = 20, MU = 0, L_MAX = 8, and the reset threshold. -/
def snapOf (w : Word) : Snapshot :=
  ⟨w, 0x1000#32, 0x8000#32, 0x2000#32, 0x6000#32, 64#32, 1#31, ⟨20#9, 0#3, 8#7⟩, 0xFFFFFFFFFFFFFFFF#64⟩

/-- A machine after reset with a command pending. -/
def busyWith (S : Snapshot) : State :=
  { State.reset with status := { State.reset.status with busy := true }, snap := S }

/-- The state a command leaves. -/
def run (i : Instr) (s : State) : State :=
  match exec i s with
  | .next t => t
  | .fault _ => s
  | .refused _ => s

/-- `STATUS`, `ERR_INFO` and `ERR_CMD` after a command. -/
def errorOf (s : State) : Word × Word × Word := (s.readReg 0x008, s.readReg 0x054, s.readReg 0x058)

/-! ### One step of each command -/

-- R121's example
theorem test_nop : (run .nop (busyWith (snapOf 0#32))).readReg 0x008 = 0x00000002#32 := by decide
-- V4: bits 8 to 31 of the last word are written 0
theorem test_prsg :
    let t := run .prsg (busyWith { snapOf 1#32 with len := 40#32, cinit := 12345#31 })
    t.memRead 0x2000 = 0x0B2FC666#32 ∧ t.memRead 0x2004 = 0x00000018#32 := by decide +kernel
-- V5b: an empty sequence writes nothing and succeeds
theorem test_prsg_empty :
    let t := run .prsg (busyWith { snapOf 1#32 with len := 0#32 })
    t.mem = [] ∧ t.readReg 0x008 = 0x00000002#32 := by decide +kernel
-- V7
theorem test_pssGen :
    let t := run (.pssGen 0) (busyWith (snapOf 0x002#32))
    t.memRead 0x2000 = 0x0000C000#32 ∧ t.memRead 0x2004 = 0x00004000#32 := by decide +kernel
-- V7: the third sign string
theorem test_pss_signs :
    (pss Params.standard 2).map (fun d => if d = 1 then '+' else '-') =
      ("++-+-+--++--+++++--+--+-+---+-+++--++-+++-++++++-++-++--+-++----+---++++-------+++---+--+++-+-++-+-----+-+-+-++++-+--+----++---"
        : String).toList := by decide +kernel
-- V8: the last sign string
theorem test_sss_signs :
    (sss Params.standard 335 2).map (fun d => if d = 1 then '+' else '-') =
      ("+----++-++-+--+------+++-+-+--+-+-+++-----++-+--+---+-+-+--+-++-+++-+--+-+-+--+-+++++--+--+----++-+++-++-+----+-+++-++++-+++++-"
        : String).toList := by decide +kernel
-- V8's corner cases: NID1 is checked before NID2
theorem test_sssGen_order :
    errorOf (run (.sssGen 400 3) (busyWith (snapOf 0x00079003#32))) = (0x00000304#32, 1#32, 0x00079003#32) := by decide
-- V12
theorem test_dmrsGen :
    let t := run (.dmrsGen 1007 5 1) (busyWith { snapOf 0x0117EF04#32 with cfg := ⟨0#9, 0#3, 4#7⟩ })
    t.memRead 0x2000 = 0x2D412D41#32 ∧ t.memRead 0x2004 = 0xD2BFD2BF#32 ∧ t.memRead 0x223C = 0xD2BF2D41#32 := by
  decide +kernel
-- V13
theorem test_qpskMod :
    let t := run .qpskMod ((busyWith { snapOf 0x10#32 with len := 8#32 }).writeWords 0x1000 [0x000000B4#32])
    t.memRead 0x2000 = 0x2D412D41#32 ∧ t.memRead 0x2004 = 0x2D41D2BF#32 ∧ t.memRead 0x2008 = 0xD2BFD2BF#32 ∧
      t.memRead 0x200C = 0xD2BF2D41#32 := by decide +kernel
-- V13c
theorem test_qpskMod_odd :
    errorOf (run .qpskMod (busyWith { snapOf 0x10#32 with len := 3#32 })) = (0x00000204#32, 0#32, 0x10#32) := by decide
-- V14
theorem test_qpskDemod :
    let s := (busyWith { snapOf 0x11#32 with len := 4#32 }).writeWords 0x1000
      [0x00000000#32, 0x8000FFFF#32, 0x00007FFF#32, 0xFFFF0001#32]
    (run .qpskDemod s).memRead 0x2000 = 0x0000008C#32 := by decide +kernel
-- R171, R175: G[56, 0] is the first word, G[55, 0] is 0
theorem test_mapPss :
    let t := run .mapPss ((busyWith (snapOf 0x20#32)).writeWords 0x1000 [1#32])
    t.memRead 0x20E0 = 1#32 ∧ t.memRead 0x20DC = 0#32 := by decide +kernel
-- R171, R176, an offset of V17
theorem test_syncIdx : (syncIdx 2).getD 0 (0, 0) = (56, 2) ∧ (syncIdx 2).getD 126 (0, 0) = (182, 2) := by decide
-- the offsets of V17, nu = 1: d[0] at G[1,1], d[1] at G[5,1], d[72] at G[193,2], d[143] at G[237,3]
theorem test_dmrsIdx : [0, 1, 60, 71, 72, 84, 143].map (fun j => (dmrsIdx 1).getD j (0, 0)) =
    [(1, 1), (5, 1), (1, 2), (45, 2), (193, 2), (1, 3), (237, 3)] := by decide +kernel
-- the same for the PBCH: p[0] at G[0,1], p[1] at G[2,1], p[431] at G[239,3]
theorem test_pbchIdx : [0, 1, 2, 3, 180, 216, 252, 431].map (fun j => (pbchIdx 1).getD j (0, 0)) =
    [(0, 1), (2, 1), (3, 1), (4, 1), (0, 2), (192, 2), (0, 3), (239, 3)] := by decide +kernel
-- R177 names no field check: MAP_PBCH fails on its operands only; here SRC1 is misaligned
theorem test_mapPbch_misaligned :
    errorOf (run (.mapPbch 1) (busyWith { snapOf 0x122#32 with src1 := 0x8002#32, dst0 := 0x2001#32 })) =
      (0x00000504#32, 1#32, 0x122#32) := by decide
-- R180: word n is G[56 + n, 2]
theorem test_unmapSss :
    let t := run .unmapSss ((busyWith { snapOf 0x23#32 with dst0 := 0x4000#32 }).writeWords 0x1860 [7#32, 8#32])
    t.memRead 0x4000 = 7#32 ∧ t.memRead 0x4004 = 8#32 := by decide +kernel
-- V17's corner cases of R173: PBCH_IDX(1) starts (0,1), (2,1); DMRS_IDX(1) starts (1,1)
theorem test_unmapPbch :
    let t := run (.unmapPbch 1)
      ((busyWith { snapOf 0x124#32 with dst0 := 0x4000#32 }).writeWords 0x13C0 [1#32, 2#32, 3#32])
    t.memRead 0x4000 = 1#32 ∧ t.memRead 0x4004 = 3#32 ∧ t.memRead 0x6000 = 2#32 := by decide +kernel
-- R187, R255: the fields are checked before `L_MAX`
theorem test_ssbGen_order :
    errorOf (run (.ssbGen 335 3 0 0) (busyWith { snapOf 0x00074F25#32 with cfg := ⟨0#9, 0#3, 0#7⟩ })) =
      (0x00000304#32, 2#32, 0x00074F25#32) := by decide
-- V19: G[0,0] goes to DST0 + 0x25B0
theorem test_mapSsb :
    let t := run (.mapSsb 12 8)
      ((busyWith { snapOf 0x00800C26#32 with cfg := ⟨25#9, 0#3, 0#7⟩ }).writeWords 0x1000 [1#32])
    t.memRead 0x45B0 = 1#32 := by decide +kernel
-- V19: the subcarrier bound is checked before the symbol bound
theorem test_mapSsb_order :
    errorOf (run (.mapSsb 61 137) (busyWith { snapOf 0x08903D26#32 with cfg := ⟨25#9, 0#3, 0#7⟩ })) =
      (0x00000404#32, 1#32, 0x08903D26#32) := by decide
-- V21's DET_RESET
theorem test_detReset : (run (.detReset 7) (busyWith (snapOf 0x730#32))).readReg 0x034 = 0x00000707#32 := by decide
-- V24: the empty sweep
theorem test_detStep_empty_sweep :
    let t := run .detStep (busyWith { snapOf 0x31#32 with cfg := ⟨10#9, 0#3, 8#7⟩ })
    t.readReg 0x044 = 0#32 ∧ t.readReg 0x03C = 0#32 ∧ t.readReg 0x008 = 2#32 ∧ t.readReg 0x034 = 7#32 := by decide +kernel
-- the error vector for DET_STEP with `L_MAX = 0`
theorem test_detStep_lMax :
    errorOf (run .detStep (busyWith { snapOf 0x31#32 with cfg := ⟨20#9, 1#3, 0#7⟩ })) = (0x00000304#32, 6#32, 0x31#32) := by
  decide
-- the corner case of R223
theorem test_decodeSss_nid2 :
    errorOf (run (.decodeSss 3) (busyWith (snapOf 0x332#32))) = (0x00000304#32, 2#32, 0x332#32) := by decide
-- V27's metric: SSS(5,1) against itself is (127·16384)^2
theorem test_sss_metric :
    metric (corr (sss Params.standard 5 1) ((sss Params.standard 5 1).map bipolar) 0) = 0x000003F010000000 := by
  decide +kernel

/-! ### The host's side -/

/-- A machine after reset with one host write to come. -/
def hostWrites (off : Nat) (v : Word) (s : State) : State := { s with script := [.regWrite off 4 v] }

/-- The state one step leaves. -/
def after (s : State) : State :=
  match step s with
  | .next t => t
  | .fault _ => s
  | .refused _ => s

-- R42, P4: a CMD write while an error stands is dropped and sets OVR
theorem test_command_dropped :
    let t := after (hostWrites 0x00C 0#32 { State.reset with
      status := { State.reset.status with err := true, errCode := 5#4 } })
    t.readReg 0x008 = 0x00000514#32 := by decide
-- R42: an accepted command
theorem test_command_accepted :
    let t := after (hostWrites 0x00C 0x102#32 State.reset)
    t.readReg 0x008 = 1#32 ∧ t.snap.cmdw = 0x102#32 ∧ t.snap.thresh = 0xFFFFFFFFFFFFFFFF#64 := by decide
-- R23: writing 1 to ERR clears ERR and ERR_CODE, and nothing else
theorem test_status_acknowledge :
    let t := after (hostWrites 0x008 4#32 { State.reset with
      status := { State.reset.status with err := true, ovr := true, errCode := 5#4 } })
    t.readReg 0x008 = 0x00000010#32 := by decide
-- R39: a 16-bit access has no meaning
theorem test_register_access_refused :
    step { State.reset with script := [.regRead 0x008 2] } = .refused .registerAccess := rfl
-- R93: a pending word with a reserved opcode
theorem test_illegal_command :
    let t := after (State.reset.withFetchWord 32 0x05)
    errorOf t = (0x00000104#32, 0#32, 5#32) := by decide

/-! ### Witnesses: for every statement with hypotheses, a state and operands that meet them -/

theorem run_exec (i : Instr) (s : State) : exec i s = .next (run i s) := by
  obtain ⟨f, hf⟩ := exec_complete i
  rw [run, hf]

/-- A busy machine with the operands of `snapOf`. -/
def ready : State := busyWith (snapOf 0#32)

theorem acc {s : State} {a : Word} {n : Nat} (h : a.toNat % 4 = 0 ∧ a.toNat + 4 * n ≤ s.params.dmemSize) :
    Accessible s a n := h

/-- A region that ends with the last byte of DMEM, and a bit length that is no multiple of 32. -/
theorem witness_PrsgWritesGoldSequence :
    ∃ s : State, Accessible s s.snap.dst0 ((s.snap.len.toNat + 31) / 32) ∧ s.snap.len = 33#32 ∧
      ∃ x1 x2, IsGoldX1 x1 ∧ IsGoldX2 s.snap.cinit.toNat x2 :=
  ⟨busyWith { snapOf 1#32 with len := 33#32, dst0 := 0xFFFF8#32 }, acc (by decide), rfl,
    _, _, isGoldX1_shiftSeq, isGoldX2_shiftSeq _⟩

theorem witness_PssGenWritesPss :
    ∃ (nid2 : Nat) (s : State), nid2 ≤ 2 ∧ Accessible s s.snap.dst0 127 ∧ ∃ x, IsMseq4 s.params.pssSeed x :=
  ⟨2, ready, by decide, acc (by decide), _, isMseq4_shiftSeq _⟩

theorem witness_SssGenWritesSss :
    ∃ (nid1 nid2 : Nat) (s : State), nid1 ≤ 335 ∧ nid2 ≤ 2 ∧ Accessible s s.snap.dst0 127 ∧
      ∃ x0 x1, IsMseq4 s.params.sssSeed x0 ∧ IsMseq1 s.params.sssSeed x1 :=
  ⟨335, 2, ready, by decide, by decide, acc (by decide), _, _, isMseq4_shiftSeq _, isMseq1_shiftSeq _⟩

theorem witness_DmrsGenWritesDmrs :
    ∃ (ncell issb nhf : Nat) (s : State) (x1 x2 : Nat → Bool), ncell ≤ 1007 ∧ 1 ≤ s.snap.cfg.lMax.toNat ∧
      s.snap.cfg.lMax.toNat ≤ 64 ∧ Accessible s s.snap.dst0 144 ∧ IsGoldX1 x1 ∧
      IsGoldX2 (2 ^ 11 * (issb % 8 + 1) * (ncell / 4 + 1) + 2 ^ 6 * (issb % 8 + 1) + ncell % 4) x2 ∧ nhf = 0 :=
  ⟨1007, 63, 0, busyWith { snapOf 4#32 with cfg := ⟨0#9, 0#3, 64#7⟩ }, _, _, by decide, by decide, by decide,
    acc (by decide), isGoldX1_shiftSeq, isGoldX2_shiftSeq _, rfl⟩

theorem witness_QpskModMapsBitPairs :
    ∃ s : State, s.snap.len.toNat % 2 = 0 ∧ Accessible s s.snap.src0 ((s.snap.len.toNat + 31) / 32) ∧
      Accessible s s.snap.dst0 (s.snap.len.toNat / 2) ∧
      Apart s.snap.src0.toNat ((s.snap.len.toNat + 31) / 32) s.snap.dst0.toNat (s.snap.len.toNat / 2) :=
  ⟨ready, by decide, acc (by decide), acc (by decide), by unfold Apart; decide⟩

theorem witness_QpskDemodTakesSigns :
    ∃ s : State, Accessible s s.snap.src0 s.snap.len.toNat ∧
      Accessible s s.snap.dst0 ((2 * s.snap.len.toNat + 31) / 32) ∧
      Apart s.snap.src0.toNat s.snap.len.toNat s.snap.dst0.toNat ((2 * s.snap.len.toNat + 31) / 32) :=
  ⟨ready, acc (by decide), acc (by decide), by unfold Apart; decide⟩

/-- The same operands serve MAP_PSS and MAP_SSS. -/
theorem witness_MapPssPlacesOnSymbolZero_MapSssPlacesOnSymbolTwo :
    ∃ s : State, Accessible s s.snap.src0 127 ∧ Accessible s s.snap.dst0 960 ∧
      Apart s.snap.src0.toNat 127 s.snap.dst0.toNat 960 :=
  ⟨ready, acc (by decide), acc (by decide), by unfold Apart; decide⟩

theorem witness_MapPbchPlacesInScanOrder :
    ∃ (nu : Nat) (s : State), nu < 4 ∧ Accessible s s.snap.src0 432 ∧ Accessible s s.snap.src1 144 ∧
      Accessible s s.snap.dst0 960 ∧ Apart s.snap.src0.toNat 432 s.snap.dst0.toNat 960 ∧
      Apart s.snap.src1.toNat 144 s.snap.dst0.toNat 960 ∧ OutsideScan (239, 0) ∧ OutsideScan (48, 2) ∧
      OutsideScan (191, 2) :=
  ⟨3, ready, by decide, acc (by decide), acc (by decide), acc (by decide), by unfold Apart; decide,
    by unfold Apart; decide, .inl rfl, .inr (by decide), .inr (by decide)⟩

theorem witness_UnmapSssExtractsSymbolTwo :
    ∃ s : State, Accessible s s.snap.src0 960 ∧ Accessible s s.snap.dst0 127 ∧
      Apart s.snap.src0.toNat 960 s.snap.dst0.toNat 127 :=
  ⟨busyWith { snapOf 0x23#32 with dst0 := 0x1F00#32 }, acc (by decide), acc (by decide), by unfold Apart; decide⟩

theorem witness_UnmapPbchExtractsInScanOrder :
    ∃ (nu : Nat) (s : State), nu < 4 ∧ Accessible s s.snap.src0 960 ∧ Accessible s s.snap.dst0 432 ∧
      Accessible s s.snap.dst1 144 ∧ Apart s.snap.src0.toNat 960 s.snap.dst0.toNat 432 ∧
      Apart s.snap.src0.toNat 960 s.snap.dst1.toNat 144 ∧ Apart s.snap.dst0.toNat 432 s.snap.dst1.toNat 144 :=
  ⟨3, ready, by decide, acc (by decide), acc (by decide), acc (by decide), by unfold Apart; decide,
    by unfold Apart; decide, by unfold Apart; decide⟩

theorem witness_SsbGenComposesSsb :
    ∃ (nid1 nid2 : Nat) (s : State), nid1 ≤ 335 ∧ nid2 ≤ 2 ∧ 1 ≤ s.snap.cfg.lMax.toNat ∧
      s.snap.cfg.lMax.toNat ≤ 64 ∧ Accessible s s.snap.src0 432 ∧ Accessible s s.snap.dst0 960 ∧
      Apart s.snap.src0.toNat 432 s.snap.dst0.toNat 960 :=
  ⟨335, 2, ready, by decide, by decide, by decide, by decide, acc (by decide), acc (by decide),
    by unfold Apart; decide⟩

/-- The narrowest resource grid that holds an SSB, at its last symbols. -/
theorem witness_MapSsbWritesAtOffsets :
    ∃ (koff loff : Nat) (s : State), 1 ≤ s.snap.cfg.nRb.toNat ∧ s.snap.cfg.nRb.toNat ≤ 275 ∧
      s.snap.cfg.mu.toNat ≤ 4 ∧ koff + 240 ≤ 12 * s.snap.cfg.nRb.toNat ∧
      loff + 4 ≤ 140 * 2 ^ s.snap.cfg.mu.toNat ∧ Accessible s s.snap.src0 960 ∧ s.snap.dst0.toNat % 4 = 0 ∧
      s.snap.dst0.toNat + 4 * (12 * s.snap.cfg.nRb.toNat * loff + koff) +
        4 * (3 * (12 * s.snap.cfg.nRb.toNat) + 240) ≤ s.params.dmemSize ∧
      Apart s.snap.src0.toNat 960 (s.snap.dst0.toNat + 4 * (12 * s.snap.cfg.nRb.toNat * loff + koff))
        (3 * (12 * s.snap.cfg.nRb.toNat) + 240) :=
  ⟨0, 136, ready, by decide, by decide, by decide, by decide, by decide, acc (by decide), by decide, by decide,
    by unfold Apart; decide⟩

theorem witness_DetResetRecreatesDetector : ∃ issb : Nat, issb < 64 := ⟨63, by decide⟩

/-! DET_STEP: a symbol of 240 subcarriers, in SEARCHING or in a collection from subcarrier 0. -/

/-- A detector state with unspecified `BUF`. -/
def detAt (srem : Srem) : Detector := ⟨srem, 0#2, 0#12, 0#6, unspecifiedBuf 0⟩

/-- A DET_STEP with the threshold `th` in a detector state. -/
def stepping (th : BitVec 64) (d : Detector) : State := { busyWith { snapOf 0x31#32 with thresh := th } with det := d }

/-- The same, with a threshold that no metric reaches. -/
def holding (d : Detector) : State := stepping 0xFFFFFFFFFFFFFFFF#64 d

theorem ready_stepping (th : BitVec 64) (d : Detector) (h : d.kssb.toNat + 240 ≤ 240) : DetReady (stepping th d) where
  nRb := by change 1 ≤ 20 ∧ 20 ≤ 275; decide
  lMax := by change 1 ≤ 8 ∧ 8 ≤ 64; decide
  window := fun _ => h
  src0 := by change 0x1000 % 4 = 0 ∧ 0x1000 + 4 * 240 ≤ 0x100000; decide
  dst0 := by change 0x2000 % 4 = 0 ∧ 0x2000 + 4 * 960 ≤ 0x100000; decide
  apart := by change 240 = 0 ∨ 960 = 0 ∨ 0x1000 + 4 * 240 ≤ 0x2000 ∨ 0x2000 + 4 * 960 ≤ 0x1000; decide

theorem detAt_buf (srem : Srem) : (detAt srem).buf.length = 960 := by
  simp only [detAt, unspecifiedBuf_length]

theorem holding_quiet (d : Detector) : ¬ (holding d).Triggers :=
  State.not_triggers_of_thresh _ (by change 34636763758592 < (0xFFFFFFFFFFFFFFFF#64).toNat; decide)

theorem witness_DetStepSearchingWithoutTrigger :
    ∃ s : State, DetReady s ∧ s.det.srem = .searching ∧ ¬ s.Triggers :=
  ⟨holding (detAt .searching), ready_stepping _ _ (by decide), rfl, holding_quiet _⟩

theorem witness_DetStepCollectsColumn_one :
    ∃ s : State, DetReady s ∧ s.det.buf.length = 960 ∧ s.det.srem = .collecting 1 ∧ ¬ s.Triggers :=
  ⟨holding (detAt (.collecting 1)), ready_stepping _ _ (by decide), detAt_buf _, rfl, holding_quiet _⟩

theorem witness_DetStepCollectsColumn_two :
    ∃ s : State, DetReady s ∧ s.det.buf.length = 960 ∧ s.det.srem = .collecting 2 ∧ ¬ s.Triggers :=
  ⟨holding (detAt (.collecting 2)), ready_stepping _ _ (by decide), detAt_buf _, rfl, holding_quiet _⟩

theorem witness_DetStepEmitsDetection :
    ∃ s : State, DetReady s ∧ s.det.buf.length = 960 ∧ s.det.srem = .collecting 0 ∧ ¬ s.Triggers :=
  ⟨holding (detAt (.collecting 0)), ready_stepping _ _ (by decide), detAt_buf _, rfl, holding_quiet _⟩

theorem detAt_window (srem : Srem) : (detAt srem).kssb.toNat + 240 ≤ 240 := by
  change 0 + 240 ≤ 240
  decide

/-- A symbol with one non-zero sample, at subcarrier 56 + 126. -/
def pulse : List Sample := List.replicate 182 Sample.zero ++ ⟨1#16, 0#16⟩ :: List.replicate 57 Sample.zero

/-- A reference against a pulse gives ±1 where it reaches the pulse. -/
theorem pulse_re (m : Nat) (n : Nat) (ref : List Int) (h : ∀ d ∈ ref, d = 1 ∨ d = -1) :
    (List.zipWith (fun r (x : Sample) => r * x.i.toInt) ref
      (List.replicate n Sample.zero ++ ⟨1#16, 0#16⟩ :: List.replicate m Sample.zero)).sum.natAbs =
      if n < ref.length then 1 else 0 := by
  have hz : ∀ k (l : List Int),
      (List.zipWith (fun r (x : Sample) => r * x.i.toInt) l (List.replicate k Sample.zero)).sum = 0 := by
    intro k
    induction k with
    | zero => simp
    | succ k ih =>
      intro l
      cases l with
      | nil => rfl
      | cons a l =>
        rw [List.replicate_succ, List.zipWith_cons_cons, List.sum_cons, ih]
        simp [Sample.zero]
  induction n generalizing ref with
  | zero =>
    cases ref with
    | nil => simp
    | cons d ref => rcases h d (by simp) with rfl | rfl <;> simp [hz]
  | succ n ih =>
    cases ref with
    | nil => simp
    | cons d ref =>
      have := ih ref fun x hx => h x (by simp [hx])
      simpa [List.replicate_succ, Sample.zero] using this

theorem pulse_im (l : List Sample) (hl : ∀ x ∈ l, x.q = 0#16) (ref : List Int) :
    (List.zipWith (fun r (x : Sample) => r * x.q.toInt) ref l).sum = 0 := by
  induction l generalizing ref with
  | nil => simp
  | cons a l ih =>
    cases ref with
    | nil => simp
    | cons d ref => simp [hl a (by simp), ih (fun x hx => hl x (by simp [hx]))]

theorem pulse_metric (p : Params) (nid2 s : Nat) (hs : s ≤ 113) :
    metric (corr (pss p nid2) pulse s) = if 56 ≤ s then 1 else 0 := by
  have hd : pulse.drop s = List.replicate (182 - s) Sample.zero ++ ⟨1#16, 0#16⟩ :: List.replicate 57 Sample.zero := by
    rw [pulse, List.drop_append_of_le_length (by rw [List.length_replicate]; omega), List.drop_replicate]
  have hq : ∀ x ∈ pulse.drop s, x.q = 0#16 := by
    intro x hx
    rw [hd] at hx
    simp only [List.mem_append, List.mem_replicate, List.mem_cons] at hx
    rcases hx with ⟨_, rfl⟩ | rfl | ⟨_, rfl⟩ <;> rfl
  have h1 := pulse_re 57 (182 - s) (pss p nid2) fun d hd => pss_mem hd
  have h2 := pulse_im _ hq (pss p nid2)
  rw [← hd, pss_length] at h1
  rw [metric, corr]
  simp only
  rw [h1, h2]
  by_cases h : 56 ≤ s
  · rw [if_pos h, if_pos (by omega)]; rfl
  · rw [if_neg h, if_neg (by omega)]; rfl

/-- The sweep of a pulse finds it at shift 56. -/
theorem pulse_sweep (p : Params) : ∃ r, sweep p pulse 240 = r ∧ r.swept = true ∧ r.h = 0 ∧ r.s = 56 := by
  obtain ⟨r, hr, h1, h2, l₁, l₂, e, h3, h4⟩ := sweep_first_max p pulse 240 (by decide)
  refine ⟨r, hr, h1, ?_⟩
  have hm : (r.h, r.s) ∈ sweepCandidates 240 := by rw [e]; simp
  rw [mem_sweepCandidates] at hm
  simp only at hm
  have h5 : (0, 56) ∈ l₁ ++ (r.h, r.s) :: l₂ := by rw [← e, mem_sweepCandidates]; decide
  have h6 : sweepMetric p pulse (0, 56) = 1 := by rw [sweepMetric, pulse_metric _ _ _ (by decide)]; rfl
  have h7 : r.m = if 56 ≤ r.s then 1 else 0 := by rw [h2, sweepMetric, pulse_metric _ _ _ (by simp only; omega)]
  have hp := sweepCandidates_pairwise 240
  rw [e, List.pairwise_append] at hp
  rcases List.mem_append.1 h5 with h | h
  · have := h3 _ h
    split at h7 <;> omega
  · rcases List.mem_cons.1 h with h | h
    · simp only [Prod.mk.injEq] at h
      exact ⟨h.1.symm, h.2.symm⟩
    · have := (List.pairwise_cons.1 hp.2.1).1 _ h
      have h8 := h4 _ h
      simp only at this
      split at h7 <;> omega

/-- A step on the pulse, with threshold 0. -/
def pulsed (d : Detector) : State := (stepping 0#64 d).writeSamples 0x1000 pulse

theorem pulsed_ready (d : Detector) (h : d.kssb.toNat + 240 ≤ 240) : DetReady (pulsed d) :=
  ⟨(ready_stepping 0#64 d h).nRb, (ready_stepping 0#64 d h).lMax, (ready_stepping 0#64 d h).window,
    (ready_stepping 0#64 d h).src0, (ready_stepping 0#64 d h).dst0, (ready_stepping 0#64 d h).apart⟩

theorem pulsed_triggers (d : Detector) : (pulsed d).Triggers := by
  have hl : pulse.length = 240 := by simp only [pulse, List.length_append, List.length_cons, List.length_replicate]
  have hy : (pulsed d).symbol = pulse := by
    have := State.readSamples_writeSamples (stepping 0#64 d) 0x1000 pulse
    rw [hl] at this
    exact this
  obtain ⟨r, hr, h1, h2, h3⟩ := pulse_sweep (pulsed d).params
  have hs : (pulsed d).sweepResult = r := by
    rw [State.sweepResult, hy]
    exact hr
  refine ⟨?_, ?_⟩
  · rw [State.Hits, hs]
    exact ⟨h1, Nat.zero_le _⟩
  · rw [State.Fits, hs, h3]
    exact ⟨by decide, by change 56 - 56 + 240 ≤ 240; decide⟩

theorem witness_DetStepTriggerStartsCollection_searching :
    ∃ s : State, DetReady s ∧ s.det.buf.length = 960 ∧ s.Triggers ∧ s.det.srem = .searching ∧
      s.snap.cfg.nRb.toNat = 20 :=
  ⟨pulsed (detAt .searching), pulsed_ready _ (detAt_window _), detAt_buf _, pulsed_triggers _, rfl, rfl⟩

/-- Mid-collection, with the running counter at 0. -/
theorem witness_DetStepTriggerStartsCollection_collecting :
    ∃ s : State, DetReady s ∧ s.det.buf.length = 960 ∧ s.Triggers ∧ s.det.srem ≠ .searching ∧ s.det.issb = 0#6 :=
  ⟨pulsed (detAt (.collecting 1)), pulsed_ready _ (detAt_window _), detAt_buf _, pulsed_triggers _,
    Srem.noConfusion, rfl⟩

theorem witness_DetStepLatchesSweep :
    ∃ s : State, DetReady s ∧ s.det.buf.length = 960 :=
  ⟨pulsed (detAt .searching), pulsed_ready _ (detAt_window _), detAt_buf _⟩

theorem witness_DecodeSssFindsFirstMaximum : ∃ (nid2 : Nat) (s : State), nid2 ≤ 2 ∧ Accessible s s.snap.src0 127 :=
  ⟨2, ready, by decide, acc (by decide)⟩

/-! Four consecutive steps: a trigger and three quiet symbols. -/

theorem collect_kssb (d : Detector) (y : List Sample) : (d.collect y).kssb = d.kssb := by
  rw [Detector.collect]
  split <;> rfl

theorem triggered_after {s t : State} (hr : DetReady s) (ht : s.Triggers) (hn : s.snap.cfg.nRb.toNat = 20)
    (he : exec .detStep s = .next t) : t.det.kssb.toNat + 240 ≤ 240 := by
  rw [exec_detStep_ready hr, triggerStep_of_triggers ht] at he
  rw [← Host.Outcome.next.inj he]
  have := (Detector.trigger_spec ht hr).2.2.2.2.2
  rw [hn] at this
  simp only [succeedCommand, collectAndEmit_det, collect_kssb]
  exact this

theorem holding_after (d : Detector) (h : d.kssb.toNat + 240 ≤ 240) (t : State)
    (he : exec .detStep (holding d) = .next t) : t.det.kssb.toNat + 240 ≤ 240 := by
  rw [exec_detStep_ready (show DetReady (holding d) from ready_stepping _ d h)] at he
  rw [← Host.Outcome.next.inj he]
  simp only [succeedCommand, collectAndEmit_det, collect_kssb]
  rcases triggerStep_of_not_triggers (holding_quiet d) with e | e <;> rw [e] <;> exact h

/-- After any step that leaves the window in place, three quiet symbols. -/
theorem quiet_steps (s1 t1 : State) (he : exec .detStep s1 = .next t1) (h1 : t1.det.kssb.toNat + 240 ≤ 240) :
    ∃ s2 t2 s3 t3 s4 : State, DetReady s2 ∧ DetReady s3 ∧ DetReady s4 ∧ exec .detStep s1 = .next t1 ∧
      s2.det = t1.det ∧ ¬ s2.Triggers ∧ exec .detStep s2 = .next t2 ∧
      s3.det = t2.det ∧ ¬ s3.Triggers ∧ exec .detStep s3 = .next t3 ∧
      s4.det = t3.det ∧ ¬ s4.Triggers := by
  obtain ⟨t2, he2⟩ : ∃ t, exec .detStep (holding t1.det) = .next t := ⟨_, run_exec _ _⟩
  have h2 := holding_after _ h1 _ he2
  obtain ⟨t3, he3⟩ : ∃ t, exec .detStep (holding t2.det) = .next t := ⟨_, run_exec _ _⟩
  have h3 := holding_after _ h2 _ he3
  exact ⟨holding t1.det, t2, holding t2.det, t3, holding t3.det, ready_stepping _ _ h1, ready_stepping _ _ h2,
    ready_stepping _ _ h3, he, rfl, holding_quiet _, he2, rfl, holding_quiet _, he3, rfl, holding_quiet _⟩

theorem witness_DetectorEmitsFourSymbols :
    ∃ s1 t1 s2 t2 s3 t3 s4 : State, DetReady s1 ∧ s1.det.buf.length = 960 ∧ s1.Triggers ∧ DetReady s2 ∧ DetReady s3 ∧
      DetReady s4 ∧ exec .detStep s1 = .next t1 ∧ s2.det = t1.det ∧ ¬ s2.Triggers ∧ exec .detStep s2 = .next t2 ∧
      s3.det = t2.det ∧ ¬ s3.Triggers ∧ exec .detStep s3 = .next t3 ∧ s4.det = t3.det ∧ ¬ s4.Triggers := by
  obtain ⟨s1, hr, hb, ht, _, hn⟩ := witness_DetStepTriggerStartsCollection_searching
  obtain ⟨t1, he⟩ : ∃ t, exec .detStep s1 = .next t := ⟨_, run_exec _ _⟩
  obtain ⟨s2, t2, s3, t3, s4, h⟩ := quiet_steps s1 t1 he (triggered_after hr ht hn he)
  exact ⟨s1, t1, s2, t2, s3, t3, s4, hr, hb, ht, h⟩

/-! Errors -/

/-- Its two clauses: a field that is out of range, and a pending word that does not decode. -/
theorem witness_FailedCommandIsPrecise :
    (∃ (i : Instr) (s : State) (e : CmdError), commandError i s = some e) ∧
      ∃ (s : State) (r : DecodeReject), s.script = [] ∧ s.status.busy = true ∧ decode s.snap.cmdw = .illegal r :=
  ⟨⟨.pssGen 3, ready, ⟨.invalidParam, 2⟩, rfl⟩, busyWith (snapOf 0x401#32), .mustBeZero, rfl, rfl, by decide⟩

/-- The illegal `L_MAX` values next to the legal range, the illegal field values next to theirs, and an odd count. -/
theorem witness_InvalidFieldFailsInOrder :
    2 < 3 ∧ 335 < 336 ∧ 1007 < 1008 ∧
      (∃ s : State, s.snap.cfg.lMax.toNat = 0) ∧ (∃ s : State, s.snap.cfg.lMax.toNat = 65) ∧
      ∃ s : State, s.snap.len.toNat % 2 = 1 :=
  ⟨by decide, by decide, by decide, ⟨busyWith { snapOf 4#32 with cfg := ⟨0#9, 0#3, 0#7⟩ }, rfl⟩,
    ⟨busyWith { snapOf 4#32 with cfg := ⟨0#9, 0#3, 65#7⟩ }, rfl⟩, busyWith { snapOf 4#32 with len := 1#32 }, rfl⟩

/-- A machine whose pending command has this `N_RB`, `MU` and `L_MAX`. -/
def withCfg (c : Cfg) : State := busyWith { snapOf 0#32 with cfg := c }

/-- One state for each clause, next to the legal range. -/
theorem witness_MapSsbChecksGridBounds :
    (withCfg ⟨0#9, 0#3, 0#7⟩).snap.cfg.nRb.toNat = 0 ∧ 275 < (withCfg ⟨276#9, 0#3, 0#7⟩).snap.cfg.nRb.toNat ∧
      4 < (withCfg ⟨275#9, 5#3, 0#7⟩).snap.cfg.mu.toNat ∧
      12 * (withCfg ⟨20#9, 4#3, 0#7⟩).snap.cfg.nRb.toNat < 1 + 240 ∧
      140 * 2 ^ (withCfg ⟨20#9, 4#3, 0#7⟩).snap.cfg.mu.toNat < 2237 + 4 := by decide

/-- The same; in the last clause a collection from subcarrier 0 in a symbol of 19 resource blocks. -/
theorem witness_DetStepChecksConfiguration :
    (withCfg ⟨0#9, 0#3, 8#7⟩).snap.cfg.nRb.toNat = 0 ∧ 275 < (withCfg ⟨276#9, 0#3, 8#7⟩).snap.cfg.nRb.toNat ∧
      (withCfg ⟨1#9, 0#3, 0#7⟩).snap.cfg.lMax.toNat = 0 ∧ 64 < (withCfg ⟨275#9, 0#3, 65#7⟩).snap.cfg.lMax.toNat ∧
      ∃ s : State, 1 ≤ s.snap.cfg.nRb.toNat ∧ s.snap.cfg.nRb.toNat ≤ 275 ∧ 1 ≤ s.snap.cfg.lMax.toNat ∧
        s.snap.cfg.lMax.toNat ≤ 64 ∧ s.det.srem ≠ .searching ∧ 12 * s.snap.cfg.nRb.toNat < s.det.kssb.toNat + 240 :=
  ⟨rfl, by decide, rfl, by decide, { withCfg ⟨19#9, 0#3, 64#7⟩ with det := detAt (.collecting 2) },
    by decide, by decide, by decide, by decide, Srem.noConfusion, by decide⟩

/-- MAP_PBCH with `SRC1` misaligned, after an aligned `SRC0`. -/
theorem witness_FirstMisalignedOperandFails :
    ∃ (i : Instr) (s : State) (pre post : List Region) (r : Region),
      (∀ o ∈ fieldChecks i s.snap s.det, o = none) ∧ namedRegions i s.snap = pre ++ r :: post ∧
      (∀ q ∈ pre, q.base % 4 = 0) ∧ r.base % 4 ≠ 0 :=
  ⟨.mapPbch 0, busyWith { snapOf 0x22#32 with src1 := 0x8003#32 }, [⟨.src0, 0x1000, 0x1000, 432⟩],
    [⟨.dst0, 0x2000, 0x2000, 960⟩], ⟨.src1, 0x8003, 0x8003, 144⟩, by decide, rfl, by decide, by decide⟩

/-- UNMAP_PBCH whose last output word is just outside DMEM. -/
theorem witness_FirstRegionOutOfRangeFails :
    ∃ (i : Instr) (s : State) (pre post : List Region) (r : Region),
      (∀ o ∈ fieldChecks i s.snap s.det, o = none) ∧ namedRegions i s.snap = pre ++ r :: post ∧
      (∀ q ∈ pre ++ r :: post, q.base % 4 = 0) ∧ (∀ q ∈ pre, q.start + 4 * q.words ≤ s.params.dmemSize) ∧
      s.params.dmemSize < r.start + 4 * r.words :=
  ⟨.unmapPbch 0, busyWith { snapOf 0x24#32 with dst1 := 0xFFDC4#32 },
    [⟨.src0, 0x1000, 0x1000, 960⟩, ⟨.dst0, 0x2000, 0x2000, 432⟩], [], ⟨.dst1, 0xFFDC4, 0xFFDC4, 144⟩,
    by decide, rfl, by decide, by decide, by decide⟩

/-- MAP_PSS whose output starts at its last input word. -/
theorem witness_OverlappingRegionsFail :
    ∃ (i : Instr) (s : State) (a b : Region),
      (∀ o ∈ fieldChecks i s.snap s.det, o = none) ∧
      (∀ q ∈ namedRegions i s.snap, q.base % 4 = 0 ∧ q.start + 4 * q.words ≤ s.params.dmemSize) ∧
      a ∈ namedRegions i s.snap ∧ b ∈ namedRegions i s.snap ∧ a ≠ b ∧ b.op.isDst = true ∧ Overlapping a b :=
  ⟨.mapPss, busyWith { snapOf 0x20#32 with dst0 := 0x11F8#32 }, ⟨.src0, 0x1000, 0x1000, 127⟩,
    ⟨.dst0, 0x11F8, 0x11F8, 960⟩, by decide, by decide, by decide, by decide, by decide, by decide,
    by unfold Overlapping; decide⟩

-- R252's examples: SRC1 on DST0 gives 0x21, DST0 on DST1 gives 0x32
theorem test_overlap_src1_dst0 :
    errorOf (run (.mapPbch 0) (busyWith { snapOf 0x22#32 with src1 := 0x2EFC#32 })) = (0x00000704#32, 0x21#32, 0x22#32) := by
  decide
theorem test_overlap_dst0_dst1 :
    errorOf (run (.unmapPbch 0) (busyWith { snapOf 0x24#32 with dst1 := 0x26BC#32 })) =
      (0x00000704#32, 0x32#32, 0x24#32) := by decide

/-! Encoding and the step -/

theorem witness_DecodeOfEncode : ∃ i : Instr, WellFormed i = true := ⟨.ssbGen 511 3 63 1, by decide⟩

theorem witness_EncodeOfDecode : ∃ (w : Word) (i : Instr), decode w = .instr i :=
  ⟨0x03FFFF25#32, .ssbGen 511 3 63 1, by decide⟩

/-- The first reserved opcode, pending. -/
theorem witness_ReservedOpcodesAreIllegal :
    ∃ s : State, s.script = [] ∧ s.status.busy = true ∧ decode s.snap.cmdw = .illegal .reservedOpcode :=
  ⟨busyWith (snapOf 5#32), rfl, rfl, by decide⟩

/-- SSB_GEN with its lowest must-be-zero bit set, pending. -/
theorem witness_MustBeZeroBitsAreIllegal :
    ∃ s : State, s.script = [] ∧ s.status.busy = true ∧ decode s.snap.cmdw = .illegal .mustBeZero :=
  ⟨busyWith (snapOf 0x04000025#32), rfl, rfl, by decide⟩

/-- Both forms of the engine's turn; a command that stays in plain memory and one that reaches a device window. -/
theorem witness_StepRunsDecodedCommand :
    (∃ (s : State) (i : Instr), s.script = [] ∧ s.status.busy = true ∧ decode s.snap.cmdw = .instr i ∧
      s.params.deviceWindows = [] ∧ s.raced = false ∧ reachesDevice i s = false ∧ ∃ t, exec i s = .next t) ∧
    ∃ (s : State) (i : Instr) (rest : List Move), s.script = .engine :: rest ∧ s.status.busy = true ∧
      decode s.snap.cmdw = .instr i ∧ reachesDevice i s = true :=
  ⟨⟨busyWith (snapOf 0x102#32), .pssGen 1, rfl, rfl, by decide, rfl, rfl, by decide, _, run_exec _ _⟩,
    { busyWith (snapOf 0x102#32) with
      params := { Params.standard with deviceWindows := [(0x2100, 4)] }, script := [.engine] }, .pssGen 1, [], rfl, rfl,
    by decide, by decide⟩

/-! The host -/

/-- A machine with its register window at 0x4000 and one host write to come. -/
def writing (off : Nat) (v : Word) (s : State) : State :=
  { s with params := { Params.standard with mmioBase := 0x4000 }, script := [.regWrite (0x4000 + off) 4 v] }

theorem witness_CommandWriteAcceptedOrDropped :
    ∃ s s' s'' : State, s.params.mmioBase % 0x100 = 0 ∧
      s.script = [.regWrite (s.params.mmioBase + 0x00C) 4 0x102#32] ∧ s.status.busy = false ∧ s.status.err = false ∧
      s'.params.mmioBase % 0x100 = 0 ∧ s'.script = [.regWrite (s'.params.mmioBase + 0x00C) 4 0x102#32] ∧
      s'.status.busy = true ∧ s''.params.mmioBase % 0x100 = 0 ∧
      s''.script = [.regWrite (s''.params.mmioBase + 0x00C) 4 0x102#32] ∧ s''.status.err = true :=
  ⟨writing 0x00C 0x102#32 State.reset, writing 0x00C 0x102#32 ready,
    writing 0x00C 0x102#32 { State.reset with status := { State.reset.status with err := true, errCode := 1#4 } },
    rfl, rfl, rfl, rfl, rfl, rfl, rfl, rfl, rfl, rfl⟩

theorem witness_StatusWriteOneClears :
    ∃ s : State, s.params.mmioBase % 0x100 = 0 ∧
      s.script = [.regWrite (s.params.mmioBase + 0x008) 4 0xFFFFFFFF#32] :=
  ⟨writing 0x008 0xFFFFFFFF#32 State.reset, rfl, rfl⟩

theorem witness_WrittenRegisterReadsBack : ∃ v : Word, v.getLsbD 31 = false := ⟨0x7FFFFFFF#32, by decide⟩

theorem witness_ReadOnlyWritesIgnored : ∃ off : Nat, off = 0x000 ∨ 0x034 ≤ off := ⟨0x034, .inr (by decide)⟩

/-- With a command pending, and the first byte outside its output region. -/
theorem witness_SoftResetRestoresRegisters :
    ∃ (s : State) (w : Word) (x : Nat), s.params.mmioBase % 0x100 = 0 ∧
      s.script = [.regWrite (s.params.mmioBase + 0x004) 4 w] ∧ w.getLsbD 31 = true ∧ s.status.busy = true ∧
      s.pendingRegions ≠ [] ∧
      ∀ r ∈ s.pendingRegions, r.op.isDst = true → x < r.start ∨ r.start + 4 * r.words ≤ x :=
  ⟨writing 0x004 0x80000000#32 (busyWith (snapOf 0x002#32)), 0x80000000#32, 0x2000 + 4 * 127, rfl, rfl, by decide, rfl,
    by decide, by decide⟩

/-- The same statement's clause for an idle block. -/
theorem witness_SoftResetRestoresRegisters_idle :
    ∃ (s : State) (w : Word), s.params.mmioBase % 0x100 = 0 ∧
      s.script = [.regWrite (s.params.mmioBase + 0x004) 4 w] ∧ w.getLsbD 31 = true ∧ s.status.busy = false :=
  ⟨writing 0x004 0xFFFFFFFF#32 State.reset, 0xFFFFFFFF#32, rfl, rfl, by decide, rfl⟩

/-- An access of the wrong width, and one that straddles the window's lower end. -/
theorem witness_UnsupportedRegisterAccessRefused :
    (∃ (s : State) (addr width : Nat), s.params.mmioBase % 0x100 = 0 ∧ s.params.mmioBase < addr + width ∧
      addr < s.params.mmioBase + 0x100 ∧ 0 < width ∧ width ≠ 4 ∧ s.script = [.regRead addr width]) ∧
    ∃ (s : State) (addr width : Nat) (v : Word), s.params.mmioBase % 0x100 = 0 ∧ s.params.mmioBase < addr + width ∧
      addr < s.params.mmioBase + 0x100 ∧ 0 < width ∧ addr % 4 ≠ 0 ∧ s.script = [.regWrite addr width v] :=
  ⟨⟨{ State.reset with script := [.regRead 0x0FF 1] }, 0x0FF, 1, rfl, by decide, by decide, by decide, by decide, rfl⟩,
    { State.reset with
      params := { Params.standard with mmioBase := 0x4000 }, script := [.regWrite 0x3FFD 4 0#32] },
    0x3FFD, 4, 0#32, rfl, by decide, by decide, by decide, by decide, rfl⟩

/-- The last four bytes of DMEM, written and read. -/
theorem witness_HostReadsAndWritesBytes :
    (∃ (s : State) (addr : Nat) (bytes : List Byte), s.script = [.dmemWrite addr bytes] ∧
      addr + bytes.length ≤ s.params.dmemSize ∧ bytes ≠ []) ∧
    ∃ (s : State) (addr n : Nat), s.script = [.dmemRead addr n] ∧ addr + n ≤ s.params.dmemSize ∧ 0 < n ∧
      s.status.busy = false :=
  ⟨⟨{ State.reset with script := [.dmemWrite 0xFFFFC [1#8, 2#8, 3#8, 4#8]] }, 0xFFFFC, [1#8, 2#8, 3#8, 4#8], rfl,
    by decide, by decide⟩, { State.reset with script := [.dmemRead 0xFFFFC 4] }, 0xFFFFC, 4, rfl, by decide, by decide, rfl⟩

/-! What a command cannot do -/

theorem witness_SnapshotIsolatesPendingCommand :
    ∃ (i : Instr) (s t : State) (off : Nat),
      off ∈ [0x010, 0x014, 0x018, 0x01C, 0x020, 0x024, 0x028, 0x02C, 0x030] ∧ exec i s = .next t :=
  ⟨.pssGen 1, ready, _, 0x018, by decide, run_exec _ _⟩

theorem witness_OnlyDetectorCommandsTouchDetector :
    ∃ (i : Instr) (s t : State), i ≠ .detStep ∧ (∀ n, i ≠ .detReset n) ∧ exec i s = .next t ∧
      (∀ n, i ≠ .decodeSss n) ∧ commandError i s = none :=
  ⟨.pssGen 2, ready, _, by decide, by simp, run_exec _ _, by simp, rfl⟩

theorem witness_CommandsKeepOtherRegisters :
    ∃ (i : Instr) (s t : State), exec i s = .next t ∧ i ≠ .detStep ∧ ∀ n, i ≠ .decodeSss n :=
  ⟨.qpskMod, ready, _, run_exec _ _, by decide, by simp⟩

/-- The bytes next to the output region. -/
theorem witness_WritesStayInsideOutputRegions :
    ∃ (i : Instr) (s t : State), WellFormed i = true ∧ exec i s = .next t ∧
      (i = .detStep → s.det.buf.length = 960) ∧
      ∀ x ∈ [0x1FFF, 0x2000 + 508], ∀ r ∈ namedRegions i s.snap, r.op.isDst = true → x < r.start ∨ r.start + 4 * r.words ≤ x :=
  ⟨.pssGen 1, ready, _, by decide, run_exec _ _, nofun, by decide⟩

-- R72, U3: DST0's words are outputs of every DET_STEP; of MAP_SSB (KOFF 0, LOFF 0, 240 subcarriers), the four rows
theorem test_outputSpans :
    outputSpans .detStep (snapOf 0x31#32) = [(0x2000, 960)] ∧
      outputSpans (.mapSsb 0 0) (snapOf 0x26#32) = [(0x2000, 240), (0x23C0, 240), (0x2780, 240), (0x2B40, 240)] := by
  decide

theorem witness_RaceAffectsOnlyOutputs :
    ∃ (i : Instr) (s t : State), s.raced = true ∧ exec i s = .next t ∧
      ∀ x ∈ [0x1FFF, 0x2000 + 508], ∀ r ∈ namedRegions i s.snap, r.op.isDst = true → x < r.start ∨ r.start + 4 * r.words ≤ x :=
  ⟨.pssGen 1, { ready with raced := true }, _, rfl, run_exec _ _, by decide⟩

/-! Memory, pure functions and round trips -/

theorem witness_CanonicalMemoryIsExtensional :
    ∃ m m' : Memory, m.wf ∧ m'.wf ∧ ∀ a, m.byte? a = m'.byte? a :=
  ⟨[(4, 1#8), (9, 2#8)], [(4, 1#8), (9, 2#8)], by decide, by decide, fun _ => rfl⟩

theorem witness_PrsgPrefix : ∃ m n : Nat, m ≤ n := ⟨33, 34, by decide⟩

/-- The widest symbol without a sweep and the narrowest with one. -/
theorem witness_SweepReturnsFirstMaximum : 126 < 127 ∧ 127 ≤ 127 := by decide

theorem witness_SsbGridIsSumOfParts : ∃ (k l : Nat) (pbch : List Sample), pbch.length = 432 ∧ k < 240 ∧ l < 4 :=
  ⟨239, 3, List.replicate 432 ⟨1#16, 2#16⟩, by rw [List.length_replicate], by decide, by decide⟩

/-- A machine with these operands and the memory of another. -/
def onward (S : Snapshot) (t : State) : State := { busyWith S with mem := t.mem }

theorem witness_QpskRoundTrip :
    ∃ s t u v : State, commandError .qpskMod s = none ∧ exec .qpskMod s = .next t ∧ u.mem = t.mem ∧
      u.snap.src0 = s.snap.dst0 ∧ u.snap.len.toNat = s.snap.len.toNat / 2 ∧ commandError .qpskDemod u = none ∧
      exec .qpskDemod u = .next v :=
  ⟨ready, _, onward { snapOf 0x11#32 with src0 := 0x2000#32, dst0 := 0x3000#32, len := 32#32 } _, _, rfl, run_exec _ _,
    rfl, rfl, rfl, rfl, run_exec _ _⟩

theorem witness_SssMappingRoundTrip :
    ∃ s t u v : State, commandError .mapSss s = none ∧ exec .mapSss s = .next t ∧ u.mem = t.mem ∧
      u.snap.src0 = s.snap.dst0 ∧ commandError .unmapSss u = none ∧ exec .unmapSss u = .next v :=
  ⟨ready, _, onward { snapOf 0x23#32 with src0 := 0x2000#32, dst0 := 0x3000#32 } _, _, rfl, run_exec _ _, rfl, rfl, rfl,
    run_exec _ _⟩

theorem witness_PbchMappingRoundTrip :
    ∃ (nu : Nat) (s t u v : State), nu < 4 ∧ commandError (.mapPbch nu) s = none ∧
      exec (.mapPbch nu) s = .next t ∧ u.mem = t.mem ∧ u.snap.src0 = s.snap.dst0 ∧
      commandError (.unmapPbch nu) u = none ∧ exec (.unmapPbch nu) u = .next v :=
  ⟨3, ready, _, onward { snapOf 0x324#32 with src0 := 0x2000#32, dst0 := 0x3000#32 } _, _, by decide, rfl, run_exec _ _,
    rfl, rfl, rfl, run_exec _ _⟩

/-! The invariant -/

theorem witness_ResetHasInvariant : ∃ p : Params, p.wf ∧ p ≠ Params.standard :=
  ⟨{ Params.standard with dmemSize := 4, mmioBase := 0x100 }, by decide, by decide⟩

/-- The machine right after its first command was accepted. -/
theorem witness_StepKeepsInvariant : ∃ s t : State, s.Inv ∧ s.status.busy = true ∧ step s = .next t := by
  refine ⟨State.reset.withFetchWord 32 0x730, _, ?_, rfl, rfl⟩
  refine ⟨by decide, by decide, by decide, by decide, by decide, by decide, by decide, by decide, ?_, by decide, ?_⟩
  · exact Srem.noConfusion
  · simp only [State.withFetchWord, State.pend, State.reset, State.powerOn, unspecifiedBuf_length]

end Sys2Proof.Tests
end

section
/-!
What a host access to one register does: the step that a register write makes, the two outcomes of a `CMD` write, and
the bits of `STATUS` and `CTRL` by name (10_state.md R20 to R23, R39, R42).
-/

namespace Sys2Proof.Machine

/-! ### The step of a host register write -/

/-- The oldest move of the schedule is the one a step makes (R20). -/
theorem step_of_script_cons {s : State} {m : Move} {rest : List Move} (h : s.script = m :: rest) :
    step s = applyMove { s with script := rest } m := by
  rw [step, h]

/-- An aligned 32-bit write to a register of the window does what the register's write says (R21, R39). -/
theorem step_regWrite {s : State} {off : Nat} {v : Word} {rest : List Move} (hb : s.params.mmioBase % 0x100 = 0)
    (h : s.script = .regWrite (s.params.mmioBase + off) 4 v :: rest) (ho : off % 4 = 0) (hlt : off + 4 ≤ 0x100) :
    step s = .next ({ s with script := rest }.writeReg off v) :=
  (step_of_script_cons h).trans (hostRegWrite_register { s with script := rest } off v hb ho hlt)

/-! ### A write to `CMD` -/

@[simp] theorem State.writeReg_cmd (s : State) (w : Word) : s.writeReg 0x00C w = acceptCommand s w := rfl

/-- While BUSY or ERR is 1, a `CMD` write is dropped (R42). -/
theorem acceptCommand_dropped {s : State} (w : Word) (h : s.status.busy = true ∨ s.status.err = true) :
    acceptCommand s w = s.setOvr := by
  rcases acceptCommand_cases s w with ⟨_, hdrop⟩ | ⟨hbusy, herr, _⟩
  · exact hdrop
  · simp [hbusy, herr] at h

/-- While BUSY and ERR are 0, a `CMD` write is accepted (R42). -/
theorem acceptCommand_accepted {s : State} (w : Word) (hbusy : s.status.busy = false) (herr : s.status.err = false) :
    acceptCommand s w = s.pend w := by
  rcases acceptCommand_cases s w with ⟨hblocked, _⟩ | ⟨_, _, hpend⟩
  · simp [hbusy, herr] at hblocked
  · exact hpend

/-! ### The bits of `STATUS` and `CTRL`, by name -/

@[simp] theorem State.readReg_ctrl (s : State) : s.readReg 0x004 = s.ctrl.word := rfl
@[simp] theorem State.readReg_status (s : State) : s.readReg 0x008 = s.status.word := rfl

@[simp] theorem Status.word_done (t : Status) : t.word.getLsbD 1 = t.done := t.word_getLsbD 1 (by decide)
@[simp] theorem Status.word_err (t : Status) : t.word.getLsbD 2 = t.err := t.word_getLsbD 2 (by decide)
@[simp] theorem Status.word_detValid (t : Status) : t.word.getLsbD 3 = t.detValid := t.word_getLsbD 3 (by decide)
@[simp] theorem Status.word_ovr (t : Status) : t.word.getLsbD 4 = t.ovr := t.word_getLsbD 4 (by decide)
@[simp] theorem Status.word_peakOob (t : Status) : t.word.getLsbD 5 = t.peakOob := t.word_getLsbD 5 (by decide)
@[simp] theorem Status.word_detOvf (t : Status) : t.word.getLsbD 6 = t.detOvf := t.word_getLsbD 6 (by decide)

@[simp] theorem Ctrl.word_ieDone (c : Ctrl) : c.word.getLsbD 0 = c.ieDone := c.word_getLsbD 0 (by decide)
@[simp] theorem Ctrl.word_ieErr (c : Ctrl) : c.word.getLsbD 1 = c.ieErr := c.word_getLsbD 1 (by decide)
@[simp] theorem Ctrl.word_ieDet (c : Ctrl) : c.word.getLsbD 2 = c.ieDet := c.word_getLsbD 2 (by decide)
@[simp] theorem Ctrl.word_ieWarn (c : Ctrl) : c.word.getLsbD 3 = c.ieWarn := c.word_getLsbD 3 (by decide)

/-! ### The obligations of 10_state.md: a write to `CMD` (R42) and the interrupt line (R48) -/

/-- Settles O36: the write is the step, and it is dropped or accepted by BUSY and ERR. -/
theorem commandWriteAcceptedOrDropped : Obligations.CommandWriteAcceptedOrDropped := by
  unfold Obligations.CommandWriteAcceptedOrDropped
  intro s rest w hb hscript
  have hstep : step s = .next (acceptCommand { s with script := rest } w) := by
    rw [step_regWrite hb hscript (by decide) (by decide), State.writeReg_cmd]
  constructor
  · intro hblocked
    exact hstep.trans (congrArg Host.Outcome.next (acceptCommand_dropped (s := { s with script := rest }) w hblocked))
  · intro hbusy herr
    exact hstep.trans (congrArg Host.Outcome.next (acceptCommand_accepted (s := { s with script := rest }) w hbusy herr))

/-- Settles O42: each bit the host reads is the flag or the enable that the interrupt line is made of. -/
theorem irqIsLevelOfEnabledBits : Obligations.IrqIsLevelOfEnabledBits := by
  unfold Obligations.IrqIsLevelOfEnabledBits
  intro s
  rw [State.readReg_status, State.readReg_ctrl, Status.word_done, Status.word_err, Status.word_detValid,
    Status.word_ovr, Status.word_peakOob, Status.word_detOvf, Ctrl.word_ieDone, Ctrl.word_ieErr, Ctrl.word_ieDet,
    Ctrl.word_ieWarn, State.irq]

end Sys2Proof.Machine
end

section
/-!
Which operand a failed command names: the first region, in the order SRC0, SRC1, DST0, DST1, that is misaligned, or that
leaves DMEM when all are aligned (20_memory.md R62, R63, 60_exceptions.md R255).
-/

namespace Sys2Proof.Machine

/-! ### The first check of a list that fails -/

/-- The check that fails first decides the error, whatever comes after it (R255); `firstError_map_split` is the
converse. -/
theorem firstError_map_of_first {α : Type} {f : α → Option CmdError} {pre : List α} {x : α} {e : CmdError}
    (hpre : ∀ p ∈ pre, f p = none) (hx : f x = some e) (post : List α) :
    firstError ((pre ++ x :: post).map f) = some e := by
  have hnone : firstError (pre.map f) = none := (firstError_eq_none _).2 (List.forall_mem_map.2 hpre)
  rw [List.map_append, firstError_append, hnone, Option.none_or, List.map_cons, hx, firstError_some_cons]

/-! ### The alignment and the range check of one region -/

/-- An aligned operand passes its alignment check (R62). -/
theorem alignedCheck_pass {r : Region} (h : r.base % 4 = 0) : check r.aligned .misaligned r.op.index = none :=
  check_pass h _ _

/-- A misaligned operand fails its alignment check (R62). -/
theorem alignedCheck_fail {r : Region} (h : r.base % 4 ≠ 0) :
    check r.aligned .misaligned r.op.index = some ⟨.misaligned, r.op.index⟩ :=
  check_fail h _ _

/-- A region inside DMEM passes its range check (R63). -/
theorem inRangeCheck_pass {r : Region} {size : Nat} (h : r.start + 4 * r.words ≤ size) :
    check (r.inRange size) .memRange r.op.index = none :=
  check_pass h _ _

/-- A region that leaves DMEM fails its range check (R63). -/
theorem inRangeCheck_fail {r : Region} {size : Nat} (h : size < r.start + 4 * r.words) :
    check (r.inRange size) .memRange r.op.index = some ⟨.memRange, r.op.index⟩ :=
  check_fail (Nat.not_le.2 h) _ _

/-! ### The operand checks -/

/-- The first misaligned operand decides the error of the operand checks (R62, R255). -/
theorem regionChecks_of_first_misaligned {pre : List Region} {r : Region} (hpre : ∀ q ∈ pre, q.base % 4 = 0)
    (hr : r.base % 4 ≠ 0) (post : List Region) (size : Nat) :
    regionChecks (pre ++ r :: post) size = some ⟨.misaligned, r.op.index⟩ := by
  rw [regionChecks, firstError_map_of_first (fun q hq => alignedCheck_pass (hpre q hq)) (alignedCheck_fail hr),
    firstError_some_cons]

/-- With every operand aligned, the first region that leaves DMEM decides the error of the operand checks (R63, R255). -/
theorem regionChecks_of_first_outOfRange {pre post : List Region} {r : Region} {size : Nat}
    (haligned : ∀ q ∈ pre ++ r :: post, q.base % 4 = 0) (hpre : ∀ q ∈ pre, q.start + 4 * q.words ≤ size)
    (hr : size < r.start + 4 * r.words) :
    regionChecks (pre ++ r :: post) size = some ⟨.memRange, r.op.index⟩ := by
  have hnone : firstError ((pre ++ r :: post).map fun q => check q.aligned .misaligned q.op.index) = none :=
    (firstError_eq_none _).2 (List.forall_mem_map.2 fun q hq => alignedCheck_pass (haligned q hq))
  rw [regionChecks, hnone, firstError_none_cons,
    firstError_map_of_first (fun q hq => inRangeCheck_pass (hpre q hq)) (inRangeCheck_fail hr), firstError_some_cons]

/-- A command whose field checks pass fails with the error of its operand checks, and changes nothing else (R255,
R256). -/
theorem exec_failsWith_of_regionChecks {i : Instr} {s : State} {e : CmdError}
    (hfields : ∀ o ∈ fieldChecks i s.snap s.det, o = none)
    (hregions : regionChecks (namedRegions i s.snap) s.params.dmemSize = some e) :
    ∃ t, exec i s = .next t ∧ FailsWith s t e.code e.info := by
  have herror : commandError i s = some e := by
    rw [commandError_eq, (firstError_eq_none _).2 hfields, Option.none_or, hregions]
  exact ⟨failCommand s e, exec_of_error herror, rfl⟩

/-! ### The obligations of 20_memory.md: the operands' alignment (R62) and range (R63) -/

/-- Settles O27: the alignment checks come before the others, and the first that fails names its operand. -/
theorem firstMisalignedOperandFails : Obligations.FirstMisalignedOperandFails := by
  unfold Obligations.FirstMisalignedOperandFails
  intro i s pre post r hfields hsplit hpre hr
  have hregions : regionChecks (namedRegions i s.snap) s.params.dmemSize = some ⟨.misaligned, r.op.index⟩ := by
    rw [hsplit, regionChecks_of_first_misaligned hpre hr]
  exact exec_failsWith_of_regionChecks hfields hregions

/-- Settles O28: with the alignment checks passed, the first range check that fails names its operand. -/
theorem firstRegionOutOfRangeFails : Obligations.FirstRegionOutOfRangeFails := by
  unfold Obligations.FirstRegionOutOfRangeFails
  intro i s pre post r hfields hsplit haligned hpre hr
  have hregions : regionChecks (namedRegions i s.snap) s.params.dmemSize = some ⟨.memRange, r.op.index⟩ := by
    rw [hsplit, regionChecks_of_first_outOfRange haligned hpre hr]
  exact exec_failsWith_of_regionChecks hfields hregions

end Sys2Proof.Machine
end

section
/-!
Why a command word does not decode: its opcode is outside the table, or a bit that its format marks must-be-zero is 1
(30_encoding.md R90, R92, R93, R94, R96).
-/

namespace Sys2Proof

/-! ### The fields that decide whether a word decodes -/

/-- The opcode field is the low byte (R90). -/
theorem bitsOf_opcode (w : Word) : bitsOf w 7 0 = w.toNat % 256 := by
  simp [bitsOf]

/-- A field that reaches bit 31 is a quotient of the word. -/
theorem bitsOf_top (w : Word) {lo : Nat} (hlo : lo ≤ 32) : bitsOf w 31 lo = w.toNat / 2 ^ lo := by
  have hpow : 2 ^ lo * 2 ^ (32 - lo) = 2 ^ 32 := by rw [← pow_add, Nat.add_sub_cancel' hlo]
  have hlt : w.toNat / 2 ^ lo < 2 ^ (32 - lo) := Nat.div_lt_of_lt_mul (hpow ▸ w.isLt)
  exact Nat.mod_eq_of_lt hlt

theorem needZero_ne_reservedOpcode (w : Word) (lo : Nat) (i : Instr) :
    needZero w lo i ≠ .illegal .reservedOpcode := by
  unfold needZero
  split <;> simp

/-- A command is refused for its zero bits exactly if the word reaches above its last field (R94). -/
theorem needZero_eq_mustBeZero (w : Word) {lo : Nat} (hlo : lo ≤ 32) (i : Instr) :
    needZero w lo i = .illegal .mustBeZero ↔ w.toNat / 2 ^ lo ≠ 0 := by
  rw [needZero, bitsOf_top w hlo]
  split <;> simp [*]

/-- A format that uses all 32 bits has nothing to check (format M, R94). -/
theorem needZero_all (w : Word) (i : Instr) : needZero w 32 i = .instr i := by
  rw [needZero, bitsOf_top w le_rfl, if_pos (Nat.div_eq_of_lt w.isLt)]

/-! ### The opcode table by format -/

/-- The lowest must-be-zero bit of an opcode's format, 32 for format M, which has none; no value for a reserved opcode
(R90, R92). The formats stand in the order N, T, R, S, D, G, M. -/
def mustBeZeroFrom (op : Nat) : Option Nat :=
  if op ∈ [0x00, 0x01, 0x10, 0x11, 0x20, 0x21, 0x23, 0x31] then some 8
  else if op ∈ [0x02, 0x22, 0x24, 0x32] then some 10
  else if op = 0x30 then some 14
  else if op = 0x03 then some 19
  else if op = 0x04 then some 25
  else if op = 0x25 then some 26
  else if op = 0x26 then some 32
  else none

/-- The opcodes of each format. -/
theorem mustBeZeroFrom_eq_some (op lo : Nat) :
    mustBeZeroFrom op = some lo ↔
      (op ∈ [0x00, 0x01, 0x10, 0x11, 0x20, 0x21, 0x23, 0x31] ∧ lo = 8) ∨
      (op ∈ [0x02, 0x22, 0x24, 0x32] ∧ lo = 10) ∨ (op = 0x30 ∧ lo = 14) ∨ (op = 0x03 ∧ lo = 19) ∨
      (op = 0x04 ∧ lo = 25) ∨ (op = 0x25 ∧ lo = 26) ∨ (op = 0x26 ∧ lo = 32) := by
  simp only [mustBeZeroFrom, List.mem_cons, List.not_mem_nil, or_false]
  split_ifs
  all_goals simp only [Option.some.injEq, false_iff]
  all_goals omega

/-- The opcodes of no format are the reserved ones (R93). -/
theorem mustBeZeroFrom_eq_none {op : Nat} (hop : op < 256) :
    mustBeZeroFrom op = none ↔
      (5 ≤ op ∧ op ≤ 0x0F) ∨ (0x12 ≤ op ∧ op ≤ 0x1F) ∨ (0x27 ≤ op ∧ op ≤ 0x2F) ∨ 0x33 ≤ op := by
  simp only [mustBeZeroFrom, List.mem_cons, List.not_mem_nil, or_false]
  split_ifs <;> simp only [false_iff, true_iff] <;> omega

theorem mustBeZeroFrom_le {op lo : Nat} (h : mustBeZeroFrom op = some lo) : lo ≤ 32 := by
  rw [mustBeZeroFrom_eq_some] at h
  omega

/-! ### Why a word does not decode -/

/-- All that decoding can answer: the table has no such opcode, or it has one and its format's zero bits decide (R96). -/
theorem decode_cases (w : Word) :
    (mustBeZeroFrom (w.toNat % 256) = none ∧ decode w = .illegal .reservedOpcode) ∨
      ∃ lo i, mustBeZeroFrom (w.toNat % 256) = some lo ∧ decode w = needZero w lo i := by
  rw [decode, bitsOf_opcode]
  generalize w.toNat % 256 = op
  split
  -- MAP_SSB, the one command of format M, is decoded with no check; the last row is every other opcode.
  case h_14 => exact .inr ⟨32, _, rfl, (needZero_all w _).symm⟩
  case h_18 => exact .inl ⟨by simp_all [mustBeZeroFrom], rfl⟩
  all_goals exact .inr ⟨_, _, rfl, rfl⟩

/-- A word is refused as reserved exactly if its opcode is in no format (R93). -/
theorem decode_eq_reservedOpcode_iff (w : Word) :
    decode w = .illegal .reservedOpcode ↔ mustBeZeroFrom (w.toNat % 256) = none := by
  rcases decode_cases w with ⟨hop, hdecode⟩ | ⟨lo, i, hop, hdecode⟩
  · simp [hop, hdecode]
  · simp [hop, hdecode, needZero_ne_reservedOpcode]

/-- A word is refused for its zero bits exactly if it reaches above its format's last field (R94). -/
theorem decode_eq_mustBeZero_iff (w : Word) :
    decode w = .illegal .mustBeZero ↔ ∃ lo, mustBeZeroFrom (w.toNat % 256) = some lo ∧ w.toNat / 2 ^ lo ≠ 0 := by
  rcases decode_cases w with ⟨hop, hdecode⟩ | ⟨lo, i, hop, hdecode⟩
  · simp [hop, hdecode]
  · rw [hdecode, needZero_eq_mustBeZero w (mustBeZeroFrom_le hop), hop]
    simp

end Sys2Proof

namespace Sys2Proof.Machine

/-! ### The completion of a word that does not decode -/

/-- The engine's step on a pending word that does not decode fails the command, whatever the reason (R43, R96). -/
theorem step_of_illegal {s : State} {r : DecodeReject} (hscript : s.script = []) (hbusy : s.status.busy = true)
    (hdecode : decode s.snap.cmdw = .illegal r) : step s = .next (failCommand s (illegalError r)) := by
  simp only [step, hscript, engineStep, hbusy, if_true, completion, hdecode]

/-- The engine's step on a pending word that does not decode makes the writes of a failed command and no others (R256). -/
theorem step_failsWith_of_illegal {s : State} {r : DecodeReject} (hscript : s.script = []) (hbusy : s.status.busy = true)
    (hdecode : decode s.snap.cmdw = .illegal r) :
    ∃ t, step s = .next t ∧ FailsWith s t (illegalError r).code (illegalError r).info :=
  ⟨_, step_of_illegal hscript hbusy hdecode, rfl⟩

/-! ### The obligations of 30_encoding.md: reserved opcodes (R93) and must-be-zero bits (R94) -/

/-- Settles O32: the opcodes of no format are the four reserved ranges, and a pending one fails at its decoding. -/
theorem reservedOpcodesAreIllegal : Obligations.ReservedOpcodesAreIllegal := by
  unfold Obligations.ReservedOpcodesAreIllegal
  constructor
  · intro w
    rw [decode_eq_reservedOpcode_iff, mustBeZeroFrom_eq_none (Nat.mod_lt _ (by decide))]
  · intro s hscript hbusy hdecode
    exact step_failsWith_of_illegal hscript hbusy hdecode

/-- Settles O33: each format refuses the words that reach above its last field; for format M no word does. -/
theorem mustBeZeroBitsAreIllegal : Obligations.MustBeZeroBitsAreIllegal := by
  unfold Obligations.MustBeZeroBitsAreIllegal
  constructor
  · intro w
    -- The refused words, one disjunct per format, of which format M's is empty.
    have hformatM : w.toNat / 2 ^ 32 = 0 := Nat.div_eq_of_lt w.isLt
    simp only [decode_eq_mustBeZero_iff, mustBeZeroFrom_eq_some, or_and_right, exists_or, and_assoc, exists_and_left,
      exists_eq_left, hformatM, ne_eq, not_true_eq_false, and_false, or_false]
  · intro s hscript hbusy hdecode
    exact step_failsWith_of_illegal hscript hbusy hdecode

end Sys2Proof.Machine
end

section
/-!
The sequence generator's PRSG as a function of its length: a longer sequence extends a shorter one with the same seed
(40_seqgen.md R126).
-/

namespace Sys2Proof.Machine

/-- A bit of the Gold sequence depends on its index and the seed, not on how many bits are asked for (R124); so the
first bits of a long sequence are the short one (R126). -/
theorem prsg_take {m n : Nat} (c : BitVec 31) (h : m ≤ n) : (prsg n c).take m = prsg m c := by
  have hlength : ((prsg n c).take m).length = (prsg m c).length := by
    rw [List.length_take, prsg_length, prsg_length, Nat.min_eq_left h]
  refine List.ext_getElem hlength fun i _ _ => ?_
  rw [List.getElem_take, prsg_getElem, prsg_getElem]

/-! ### The obligation of 40_seqgen.md: prefixes of PRSG (R126) -/

/-- Settles O51: the prefix by comparing the two sequences bit by bit, and the length of PRSG. -/
theorem prsgPrefix : Obligations.PrsgPrefix := by
  unfold Obligations.PrsgPrefix
  intro m n c h
  exact ⟨(prsg_take c h).symm, prsg_length n c⟩

end Sys2Proof.Machine
end

section
/-!
The QPSK modulator and demodulator undo each other: demodulating the symbols of a bit vector of even length gives the
vector back, also through DMEM (41_modulator.md R151, R154, R157).
-/

namespace Sys2Proof.Machine

/-! ### The two mappings -/

/-- A component of a QPSK symbol is negative exactly if its bit is 1 (R151, R154). -/
theorem demod_qpsk (b0 b1 : Bool) : demod (qpsk b0 b1) = [b0, b1] := by
  cases b0 <;> cases b1 <;> decide

/-- Demodulation inverts modulation on a bit sequence of even length (R157). -/
theorem flatMap_demod_qpskPairs (bs : List Bool) (heven : bs.length % 2 = 0) : (qpskPairs bs).flatMap demod = bs := by
  induction bs using qpskPairs.induct with
  | case1 b0 b1 bs ih =>
    have hrest : bs.length % 2 = 0 := by
      rw [List.length_cons, List.length_cons] at heven
      omega
    rw [qpskPairs, List.flatMap_cons, demod_qpsk, ih hrest, List.cons_append, List.singleton_append]
  | case2 b => simp at heven
  | case3 => rfl

/-! ### Bit vectors and samples in DMEM -/

/-- Two states with the same DMEM read the same samples. -/
theorem State.readSamples_congr {s t : State} (h : s.mem = t.mem) (a n : Nat) :
    s.readSamples a n = t.readSamples a n := by
  simp only [State.readSamples, State.memRead_congr h]

/-- A bit of `ReadBits` is the vector's bit (R65). -/
theorem State.readBits_getD (s : State) (a : Nat) {n i : Nat} (h : i < n) :
    (s.readBits a n).getD i false = s.vectorBit a i := by
  rw [List.getD_eq_getElem _ _ (by rwa [State.readBits_length]), State.readBits_getElem, State.vectorBit]

/-- Reading back a bit of a written vector (R65). -/
theorem State.vectorBit_writeBits (s : State) (a : Nat) {bs : List Bool} {i : Nat} (h : i < bs.length) :
    (s.writeBits a bs).vectorBit a i = bs.getD i false :=
  State.memRead_writeBits s a bs i (by rw [bitWords]; omega)

/-! ### The two commands -/

/-- A QPSK_MOD that succeeds has an even bit count (R152). -/
theorem len_even_of_qpskMod {s : State} (h : commandError .qpskMod s = none) : s.snap.len.toNat % 2 = 0 := by
  obtain ⟨hfields, _⟩ := (commandError_eq_none .qpskMod s).1 h
  simpa [fieldChecks] using hfields

/-- A QPSK_MOD that succeeds leaves its symbols at `DST0`, where they read back as samples (R152). -/
theorem readSamples_of_qpskMod {s t : State} (hok : commandError .qpskMod s = none)
    (hexec : exec .qpskMod s = .next t) :
    t.readSamples s.snap.dst0.toNat (s.snap.len.toNat / 2) =
      qpskPairs (s.readBits s.snap.src0.toNat s.snap.len.toNat) := by
  rw [exec_qpskMod_ok hok, Host.Outcome.next.injEq] at hexec
  subst hexec
  have hlength : (qpskPairs (s.readBits s.snap.src0.toNat s.snap.len.toNat)).length = s.snap.len.toNat / 2 := by
    rw [qpskPairs_length, State.readBits_length]
  rw [State.readSamples_congr (succeedCommand_mem _), ← hlength, State.readSamples_writeSamples]

/-- A QPSK_DEMOD that succeeds leaves the bits of its input samples at `DST0` (R156). -/
theorem vectorBit_of_qpskDemod {u v : State} (hok : commandError .qpskDemod u = none)
    (hexec : exec .qpskDemod u = .next v) {bs : List Bool}
    (hbits : (u.readSamples u.snap.src0.toNat u.snap.len.toNat).flatMap demod = bs) {i : Nat} (hi : i < bs.length) :
    v.vectorBit u.snap.dst0.toNat i = bs.getD i false := by
  rw [exec_qpskDemod_ok hok, hbits, Host.Outcome.next.injEq] at hexec
  subst hexec
  exact State.vectorBit_writeBits u _ hi

/-! ### The obligation of 41_modulator.md: the round trip (R157) -/

/-- Settles O55: the samples QPSK_DEMOD reads are the symbols of the bits QPSK_MOD read, and their signs are those
bits, the bit count being even. -/
theorem qpskRoundTrip : Obligations.QpskRoundTrip := by
  unfold Obligations.QpskRoundTrip
  intro s t u v hmod hexecMod hmem hsrc hlen hdemod hexecDemod i hi
  have hsamples : u.readSamples u.snap.src0.toNat u.snap.len.toNat =
      qpskPairs (s.readBits s.snap.src0.toNat s.snap.len.toNat) := by
    rw [State.readSamples_congr hmem, hsrc, hlen, readSamples_of_qpskMod hmod hexecMod]
  have hbits : (u.readSamples u.snap.src0.toNat u.snap.len.toNat).flatMap demod =
      s.readBits s.snap.src0.toNat s.snap.len.toNat := by
    rw [hsamples, flatMap_demod_qpskPairs _ (by rw [State.readBits_length]; exact len_even_of_qpskMod hmod)]
  rw [vectorBit_of_qpskDemod hdemod hexecDemod hbits (by rwa [State.readBits_length]), State.readBits_getD s _ hi]

end Sys2Proof.Machine
end

section
/-!
The unmappers undo the mappers: gathering the positions that were placed gives the samples back, also through DMEM, for
the SSS (42_mapper.md R181) and for the PBCH with its DM-RS (R184).
-/

namespace Sys2Proof.Machine

/-! ### Gathering from a grid in which samples were placed -/

/-- Samples placed elsewhere do not show at the gathered positions. -/
theorem gather_place_disjoint (g : Grid) {idx idx' : List (Nat × Nat)} (xs : List Sample)
    (h : ∀ p ∈ idx, ∀ q ∈ idx', gridIndex q ≠ gridIndex p) : gather (place g idx' xs) idx = gather g idx :=
  List.map_congr_left fun p hp => gridAt_place_outside g idx' xs p (h p hp)

theorem gridIndex_lt_of_syncIdx {l : Nat} (hl : l < 4) {p : Nat × Nat} (h : p ∈ syncIdx l) : gridIndex p < 960 := by
  obtain ⟨n, hn, rfl⟩ := List.mem_map.1 h
  have hn : n < 127 := List.mem_range.1 hn
  simp only [gridIndex]
  omega

/-- The tables of PBCH and DM-RS positions share no place of the grid (R172). -/
theorem pbchIdx_disjoint_dmrsIdx {nu : Nat} {p q : Nat × Nat} (hp : p ∈ pbchIdx nu) (hq : q ∈ dmrsIdx nu) :
    gridIndex q ≠ gridIndex p := by
  intro he
  have hlt {r : Nat × Nat} (hr : r ∈ scan) : r.1 < 240 := ((mem_scan r).1 hr).1
  have heq : q = p := gridIndex_inj (hlt (dmrs_scan hq)) (hlt (pbch_scan hp)) he
  subst heq
  exact ((mem_pbchIdx nu q).1 hp).2 ((mem_dmrsIdx nu q).1 hq).2

theorem syncGrid_length (l : Nat) (xs : List Sample) : (syncGrid l xs).length = 960 := by
  rw [syncGrid, place_length, zeroGrid_length]

theorem pbchGrid_length (nu : Nat) (p d : List Sample) : (pbchGrid nu p d).length = 960 := by
  rw [pbchGrid, place_length, place_length, zeroGrid_length]

/-- The PSS or SSS positions of a grid hold the samples that were mapped there (R171, R175, R176). -/
theorem gather_syncGrid {l : Nat} (hl : l < 4) {xs : List Sample} (hxs : xs.length = 127) :
    gather (syncGrid l xs) (syncIdx l) = xs :=
  gather_place zeroGrid _ xs (by rw [syncIdx_length, hxs]) (syncIdx_nodup l) fun _ hp => by
    rw [zeroGrid_length]; exact gridIndex_lt_of_syncIdx hl hp

/-- The PBCH positions of a grid hold the PBCH samples: the DM-RS placed after them went elsewhere (R177). -/
theorem gather_pbchGrid_pbch {nu : Nat} (hnu : nu < 4) {p : List Sample} (d : List Sample) (hp : p.length = 432) :
    gather (pbchGrid nu p d) (pbchIdx nu) = p := by
  rw [pbchGrid, gather_place_disjoint _ d fun _ hq _ hr => pbchIdx_disjoint_dmrsIdx hq hr]
  exact gather_place zeroGrid _ p (by rw [pbchIdx_len nu hnu, hp]) (pbchIdx_nodup nu) fun _ hq => by
    rw [zeroGrid_length]; exact gridIndex_lt_of_scan (pbch_scan hq)

/-- The DM-RS positions of a grid hold the DM-RS samples (R177). -/
theorem gather_pbchGrid_dmrs {nu : Nat} (hnu : nu < 4) (p : List Sample) {d : List Sample} (hd : d.length = 144) :
    gather (pbchGrid nu p d) (dmrsIdx nu) = d :=
  gather_place _ _ d (by rw [dmrsIdx_len nu hnu, hd]) (dmrsIdx_nodup nu) fun _ hq => by
    rw [place_length, zeroGrid_length]; exact gridIndex_lt_of_scan (dmrs_scan hq)

/-! ### Sample vectors and grids in DMEM -/

/-- Regions that read as the same samples hold the same words: a sample is all of its word (R64). -/
theorem State.memRead_eq_of_readSamples_eq {s t : State} {a b n : Nat} (h : t.readSamples a n = s.readSamples b n)
    {i : Nat} (hi : i < n) : t.memRead (a + 4 * i) = s.memRead (b + 4 * i) := by
  rw [← readSamples_getD_word t a n i hi, h, readSamples_getD_word s b n i hi]

/-- Samples apart from the written ones read as before. -/
theorem State.readSamples_writeSamples_outside (s : State) {a b n : Nat} (xs : List Sample)
    (h : b + 4 * n ≤ a ∨ a + 4 * xs.length ≤ b) : (s.writeSamples a xs).readSamples b n = s.readSamples b n := by
  refine List.map_congr_left fun i hi => ?_
  have hi : i < n := List.mem_range.1 hi
  rw [State.memRead_writeSamples_outside s a xs _ (by omega)]

/-- Two states with the same DMEM read the same grid. -/
theorem State.readGrid_congr {s t : State} (h : s.mem = t.mem) (a : Nat) : s.readGrid a = t.readGrid a :=
  State.readSamples_congr h a 960

/-! ### The four commands -/

/-- A MAP_SSS that succeeds leaves its grid at `DST0` (R176). -/
theorem readGrid_of_mapSss {s t : State} (hok : commandError .mapSss s = none) (hexec : exec .mapSss s = .next t) :
    t.readGrid s.snap.dst0.toNat = syncGrid 2 (s.readSamples s.snap.src0.toNat 127) := by
  rw [exec_mapSss_ok hok, Host.Outcome.next.injEq] at hexec
  subst hexec
  rw [State.readGrid_congr (succeedCommand_mem _), State.readGrid_writeGrid _ _ _ (syncGrid_length ..)]

/-- A MAP_PBCH that succeeds leaves its grid at `DST0` (R177). -/
theorem readGrid_of_mapPbch {nu : Nat} {s t : State} (hok : commandError (.mapPbch nu) s = none)
    (hexec : exec (.mapPbch nu) s = .next t) :
    t.readGrid s.snap.dst0.toNat =
      pbchGrid nu (s.readSamples s.snap.src0.toNat 432) (s.readSamples s.snap.src1.toNat 144) := by
  rw [exec_mapPbch_ok hok, Host.Outcome.next.injEq] at hexec
  subst hexec
  rw [State.readGrid_congr (succeedCommand_mem _), State.readGrid_writeGrid _ _ _ (pbchGrid_length ..)]

/-- An UNMAP_SSS that succeeds leaves the gathered SSS positions at `DST0` (R180). -/
theorem readSamples_of_unmapSss {u v : State} (hok : commandError .unmapSss u = none)
    (hexec : exec .unmapSss u = .next v) :
    v.readSamples u.snap.dst0.toNat 127 = gather (u.readGrid u.snap.src0.toNat) (syncIdx 2) := by
  rw [exec_unmapSss_ok hok, Host.Outcome.next.injEq] at hexec
  subst hexec
  have hlength : (gather (u.readGrid u.snap.src0.toNat) (syncIdx 2)).length = 127 := by
    rw [gather_length, syncIdx_length]
  rw [State.readSamples_congr (succeedCommand_mem _), ← hlength, State.readSamples_writeSamples]

/-- The output regions of an UNMAP_PBCH that succeeds are disjoint (R68). -/
theorem outputs_apart_of_unmapPbch {nu : Nat} {u : State} (hok : commandError (.unmapPbch nu) u = none) :
    Apart u.snap.dst0.toNat 432 u.snap.dst1.toNat 144 := by
  obtain ⟨_, hregions⟩ := (commandError_eq_none _ u).1 hok
  obtain ⟨_, _, _, _, _, hapart⟩ := (regionChecks_two_dst _ _ _ _ rfl rfl rfl).1 hregions
  exact hapart

/-- An UNMAP_PBCH that succeeds leaves the gathered PBCH positions at `DST0`, where the later write to `DST1` does not
reach, and the gathered DM-RS positions at `DST1` (R183). -/
theorem readSamples_of_unmapPbch {nu : Nat} (hnu : nu < 4) {u v : State}
    (hok : commandError (.unmapPbch nu) u = none) (hexec : exec (.unmapPbch nu) u = .next v) :
    v.readSamples u.snap.dst0.toNat 432 = gather (u.readGrid u.snap.src0.toNat) (pbchIdx nu) ∧
      v.readSamples u.snap.dst1.toNat 144 = gather (u.readGrid u.snap.src0.toNat) (dmrsIdx nu) := by
  have hapart := outputs_apart_of_unmapPbch hok
  rw [exec_unmapPbch_ok hok, Host.Outcome.next.injEq] at hexec
  subst hexec
  have hpbch : (gather (u.readGrid u.snap.src0.toNat) (pbchIdx nu)).length = 432 := by
    rw [gather_length, pbchIdx_len nu hnu]
  have hdmrs : (gather (u.readGrid u.snap.src0.toNat) (dmrsIdx nu)).length = 144 := by
    rw [gather_length, dmrsIdx_len nu hnu]
  constructor
  · rw [State.readSamples_congr (succeedCommand_mem _),
      State.readSamples_writeSamples_outside _ _ (by rw [hdmrs]; simp only [Apart] at hapart; omega), ← hpbch,
      State.readSamples_writeSamples]
  · rw [State.readSamples_congr (succeedCommand_mem _), ← hdmrs, State.readSamples_writeSamples]

/-! ### The obligations of 42_mapper.md: the round trips (R181, R184) -/

/-- Settles O56: UNMAP_SSS reads the grid that MAP_SSS wrote, and gathers the samples placed in it. -/
theorem sssMappingRoundTrip : Obligations.SssMappingRoundTrip := by
  unfold Obligations.SssMappingRoundTrip
  intro s t u v hmap hexecMap hmem hsrc hunmap hexecUnmap n hn
  have hgrid : u.readGrid u.snap.src0.toNat = syncGrid 2 (s.readSamples s.snap.src0.toNat 127) := by
    rw [State.readGrid_congr hmem, hsrc, readGrid_of_mapSss hmap hexecMap]
  have hsss : v.readSamples u.snap.dst0.toNat 127 = s.readSamples s.snap.src0.toNat 127 := by
    rw [readSamples_of_unmapSss hunmap hexecUnmap, hgrid, gather_syncGrid (by decide) (State.readSamples_length ..)]
  exact State.memRead_eq_of_readSamples_eq hsss hn

/-- Settles O57: UNMAP_PBCH reads the grid that MAP_PBCH wrote, and gathers from its disjoint tables what was placed at
each. -/
theorem pbchMappingRoundTrip : Obligations.PbchMappingRoundTrip := by
  unfold Obligations.PbchMappingRoundTrip
  intro nu s t u v hnu hmap hexecMap hmem hsrc hunmap hexecUnmap
  have hgrid : u.readGrid u.snap.src0.toNat =
      pbchGrid nu (s.readSamples s.snap.src0.toNat 432) (s.readSamples s.snap.src1.toNat 144) := by
    rw [State.readGrid_congr hmem, hsrc, readGrid_of_mapPbch hmap hexecMap]
  obtain ⟨hpbch, hdmrs⟩ := readSamples_of_unmapPbch hnu hunmap hexecUnmap
  rw [hgrid, gather_pbchGrid_pbch hnu _ (State.readSamples_length ..)] at hpbch
  rw [hgrid, gather_pbchGrid_dmrs hnu _ (State.readSamples_length ..)] at hdmrs
  exact ⟨fun i hi => State.memRead_eq_of_readSamples_eq hpbch hi,
    fun j hj => State.memRead_eq_of_readSamples_eq hdmrs hj⟩

end Sys2Proof.Machine
end

section
/-!
The correlation engine (43_correlator.md): the sweep keeps the first maximum of its scan (R214), a detector step latches
that sweep and writes no DMEM but the words at `DST0` (R215, R216, R220), and every other command's effect commutes with
a replacement of the detector state (R210).
-/

namespace Sys2Proof.Machine

/-! ### The sweep's result against every candidate (R214) -/

/-- A sweep with a shift to try returns one of its candidates, with that candidate's metric. -/
theorem sweep_isCandidate (p : Params) (y : List Sample) {nSc : Nat} (h : 127 ≤ nSc) :
    (sweep p y nSc).swept = true ∧ ((sweep p y nSc).h, (sweep p y nSc).s) ∈ sweepCandidates nSc ∧
      (sweep p y nSc).m = sweepMetric p y ((sweep p y nSc).h, (sweep p y nSc).s) := by
  obtain ⟨r, rfl, hswept, hm, before, after, hsplit, _, _⟩ := sweep_first_max p y nSc h
  exact ⟨hswept, by simp [hsplit], hm⟩

/-- No candidate has a greater metric than the sweep's, and those scanned before its own have a smaller one. -/
theorem sweep_firstMax {p : Params} {y : List Sample} {nSc : Nat} {c : Nat × Nat} (hc : c ∈ sweepCandidates nSc) :
    sweepMetric p y c ≤ (sweep p y nSc).m ∧
      ((c.1 < (sweep p y nSc).h ∨ (c.1 = (sweep p y nSc).h ∧ c.2 < (sweep p y nSc).s)) →
        sweepMetric p y c < (sweep p y nSc).m) := by
  have hshift := ((mem_sweepCandidates nSc c).1 hc).2
  obtain ⟨r, rfl, _, hm, before, after, hsplit, hbefore, hafter⟩ := sweep_first_max p y nSc (by omega)
  have horder := sweepCandidates_pairwise nSc
  rw [hsplit] at hc horder
  obtain ⟨_, hlater, _⟩ := List.pairwise_append.1 horder
  rcases List.mem_append.1 hc with hc | hc
  · exact ⟨(hbefore c hc).le, fun _ => hbefore c hc⟩
  rcases List.mem_cons.1 hc with rfl | hc
  · exact ⟨hm.ge, fun hlt => by simp at hlt⟩
  · have hgt := List.rel_of_pairwise_cons hlater hc
    exact ⟨hafter c hc, fun hlt => by omega⟩

/-! ### What a detector step latches and flags (R215, R216) -/

/-- The CORR registers hold the sweep's result exactly: a legal symbol's bounds fit their widths. -/
theorem latchSweep_toNat {s : State} (hready : DetReady s) :
    (latchSweep s s.sweepResult).corr.toNat = s.sweepResult.m ∧
      (latchSweep s s.sweepResult).corrPos.nid2.toNat = s.sweepResult.h ∧
      (latchSweep s s.sweepResult).corrPos.shift.toNat = s.sweepResult.s := by
  obtain ⟨hh, hs, hm⟩ : s.sweepResult.h ≤ 2 ∧ s.sweepResult.s ≤ 12 * s.snap.cfg.nRb.toNat - 127 ∧
      s.sweepResult.m ≤ 34636763758592 := sweep_bounds _ _ _
  obtain ⟨_, hnRb⟩ := hready.nRb
  simp only [latchSweep_corr, latchSweep_corrPos, BitVec.toNat_ofNat]
  omega

/-- A detector step on the symbol at `SRC0` latches its sweep, decides on it, and collects the symbol. -/
theorem detStep_symbol (s : State) :
    detStep s s.symbol = collectAndEmit (triggerStep (latchSweep s s.sweepResult) s.sweepResult) s.symbol := rfl

/-- Collection and emission leave the latched metric. -/
@[simp] theorem collectAndEmit_corr (u : State) (y : List Sample) : (collectAndEmit u y).corr = u.corr := by
  rw [collectAndEmit_frame]

/-- Collection and emission leave the latched position. -/
@[simp] theorem collectAndEmit_corrPos (u : State) (y : List Sample) : (collectAndEmit u y).corrPos = u.corrPos := by
  rw [collectAndEmit_frame]

/-- Collection and emission leave PEAK_OOB. -/
@[simp] theorem collectAndEmit_peakOob (u : State) (y : List Sample) :
    (collectAndEmit u y).status.peakOob = u.status.peakOob := by
  rw [collectAndEmit_frame]

/-- The trigger decision changes PEAK_OOB and the detector state alone. -/
theorem triggerStep_eq (s : State) (r : Sweep) : triggerStep s r = { s with
    status := { s.status with peakOob := (triggerStep s r).status.peakOob }
    det := (triggerStep s r).det } := by
  rcases triggerStep_cases s r with ⟨_, e⟩ | ⟨_, _, e⟩ | ⟨_, _, e⟩
  · rw [e]
  · rw [e]; rfl
  · rw [e]

@[simp] theorem triggerStep_corr (s : State) (r : Sweep) : (triggerStep s r).corr = s.corr := by
  rw [triggerStep_eq]

@[simp] theorem triggerStep_corrPos (s : State) (r : Sweep) : (triggerStep s r).corrPos = s.corrPos := by
  rw [triggerStep_eq]

@[simp] theorem triggerStep_snap (s : State) (r : Sweep) : (triggerStep s r).snap = s.snap := by
  rw [triggerStep_eq]

@[simp] theorem triggerStep_mem (s : State) (r : Sweep) : (triggerStep s r).mem = s.mem := by
  rw [triggerStep_eq]

/-- PEAK_OOB becomes 1 exactly when the sweep reaches the threshold and its window does not fit (R216). -/
theorem triggerStep_peakOob (s : State) (r : Sweep) :
    (triggerStep s r).status.peakOob = true ↔
      s.status.peakOob = true ∨ (r.hits s.snap.thresh = true ∧ ¬ r.fits s.snap.nSc = true) := by
  rcases triggerStep_cases s r with ⟨hhits, e⟩ | ⟨hhits, hfits, e⟩ | ⟨_, hfits, e⟩
  · simp [e, hhits]
  · simp [e, hhits, hfits]
  · simp [e, hfits]

/-! ### The words a detector step writes (R219, R220) -/

/-- Two states with the same DMEM read the same bytes. -/
theorem State.byteAt_congr {s t : State} (h : s.mem = t.mem) (a : Nat) : s.byteAt a = t.byteAt a := by
  rw [State.byteAt, h, State.byteAt]

/-- Collection and emission write at most the 960 words at `DST0`: the full buffer, when they emit. -/
theorem collectAndEmit_keepsOutside {u : State} {y : List Sample} (hbuf : u.det.buf.length = 960)
    (hwindow : u.det.srem ≠ .searching → u.det.kssb.toNat + 240 ≤ y.length) :
    KeepsOutside u (collectAndEmit u y) u.snap.dst0.toNat 960 := by
  intro x hx
  rcases collectAndEmit_cases u y with ⟨_, e⟩ | ⟨_, _, _, e⟩ | ⟨hsrem, e⟩
  · rw [e]
  · rw [e]; rfl
  · obtain ⟨_, hlength, _, _⟩ := u.det.collect_spec y 0 hsrem hbuf (hwindow (by simp [hsrem]))
    rw [e]
    exact State.byteAt_writeSamples_outside { u with det := u.det.collect y } u.snap.dst0.toNat _ x (by rwa [hlength])

/-- After the trigger decision the buffer is the same, and a collection's window fits the symbol (R216, R220). -/
theorem triggerStep_window {s : State} (hready : DetReady s) :
    (triggerStep (latchSweep s s.sweepResult) s.sweepResult).det.buf = s.det.buf ∧
      ((triggerStep (latchSweep s s.sweepResult) s.sweepResult).det.srem ≠ .searching →
        (triggerStep (latchSweep s s.sweepResult) s.sweepResult).det.kssb.toNat + 240 ≤ s.symbol.length) := by
  rw [State.symbol_length]
  by_cases htrig : s.Triggers
  · obtain ⟨_, _, _, _, hbuf, hfits⟩ := Detector.trigger_spec htrig hready
    rw [triggerStep_of_triggers htrig]
    exact ⟨hbuf, fun _ => hfits⟩
  · rcases triggerStep_of_not_triggers htrig with e | e <;> rw [e] <;> exact ⟨rfl, hready.window⟩

/-- A detector step with legal operands writes no byte but the 960 words at `DST0` (R220). -/
theorem detStep_keepsOutside {s : State} (hready : DetReady s) (hbuf : s.det.buf.length = 960) :
    KeepsOutside s
      (succeedCommand (collectAndEmit (triggerStep (latchSweep s s.sweepResult) s.sweepResult) s.symbol))
      s.snap.dst0.toNat 960 := by
  obtain ⟨hsame, hwindow⟩ := triggerStep_window hready
  have hkeeps := collectAndEmit_keepsOutside ((congrArg List.length hsame).trans hbuf) hwindow
  rw [triggerStep_snap, latchSweep_snap] at hkeeps
  have hmem : (triggerStep (latchSweep s s.sweepResult) s.sweepResult).mem = s.mem := by simp
  exact fun x hx => (State.byteAt_congr (succeedCommand_mem _) x).trans ((hkeeps x hx).trans (State.byteAt_congr hmem x))

/-! ### Commands and the detector state (R210) -/

/-- MAP_SSB's writes carry the detector state along. -/
theorem writeSsb_any_detector (s : State) (d : Detector) (koff loff : Nat) (g : Grid) :
    writeSsb { s with det := d } koff loff g = { writeSsb s koff loff g with det := d } := by
  rw [writeSsb_eq, writeSsb_eq]
  rfl

/-- Every command but DET_RESET and DET_STEP has the same checks and the same effect whatever the detector state, and its
effect carries the detector state along. -/
theorem exec_complete_any_detector {i : Instr} (hstep : i ≠ .detStep) (hreset : ∀ n, i ≠ .detReset n) :
    ∃ f : State → State, (∀ s, exec i s = .next (complete (commandError i s) s f)) ∧
      ∀ (s : State) (d : Detector), commandError i { s with det := d } = commandError i s ∧
        f { s with det := d } = { f s with det := d } := by
  cases i with
  | detStep => exact absurd rfl hstep
  | detReset n => exact absurd rfl (hreset n)
  | mapSsb koff loff => exact ⟨_, fun _ => rfl, fun s d => ⟨rfl, writeSsb_any_detector s d koff loff _⟩⟩
  | _ => exact ⟨_, fun _ => rfl, fun _ _ => ⟨rfl, rfl⟩⟩

/-- Completion carries the detector state along if the effect does. -/
theorem complete_any_detector {f : State → State} {s : State} {d : Detector}
    (hf : f { s with det := d } = { f s with det := d }) (err : Option CmdError) :
    complete err { s with det := d } f = { complete err s f with det := d } := by
  cases err with
  | some e => rfl
  | none => rw [complete_none, complete_none, hf]; rfl

/-- A command but DET_RESET and DET_STEP does the same from any other detector state (R210). -/
theorem exec_any_detector {i : Instr} {s t : State} (hstep : i ≠ .detStep) (hreset : ∀ n, i ≠ .detReset n)
    (hexec : exec i s = .next t) (d : Detector) : exec i { s with det := d } = .next { t with det := d } := by
  obtain ⟨f, hf, hd⟩ := exec_complete_any_detector hstep hreset
  obtain ⟨herr, heff⟩ := hd s d
  rw [hf, Host.Outcome.next.injEq] at hexec
  rw [hf, herr, complete_any_detector heff, hexec]

/-! ### The obligations of 43_correlator.md -/

/-- Settles O53: the sweep's result is a candidate of the scan, and stands in it at its first maximum. -/
theorem sweepReturnsFirstMaximum : Obligations.SweepReturnsFirstMaximum := by
  unfold Obligations.SweepReturnsFirstMaximum
  intro p y nSc
  refine ⟨sweep_empty p y nSc, fun h127 => ?_⟩
  obtain ⟨hswept, hmem, hm⟩ := sweep_isCandidate p y h127
  simp only [mem_sweepCandidates, sweepMetric] at hmem hm
  refine ⟨hswept, by omega, by omega, hm, fun h s hh2 hs2 => ?_⟩
  exact sweep_firstMax (c := (h, s)) ((mem_sweepCandidates nSc (h, s)).2 ⟨Nat.lt_succ_of_le hh2, by simp only; omega⟩)

/-- Settles O16: the step latches its sweep, then decides and collects, which leave the CORR registers; the decision alone
touches PEAK_OOB, and collection alone touches DMEM. -/
theorem detStepLatchesSweep : Obligations.DetStepLatchesSweep := by
  unfold Obligations.DetStepLatchesSweep
  intro s hready hbuf
  obtain ⟨hm, hh, hs⟩ := latchSweep_toNat hready
  refine ⟨_, exec_detStep_ready hready, ?frame, ?metric, ?nid2, ?shift, ?swept, ?peakOob,
    detStep_keepsOutside hready hbuf⟩
  case frame =>
    have hframe := detStep_frame s s.symbol
    rw [detStep_symbol] at hframe
    generalize collectAndEmit _ _ = u at hframe ⊢
    rw [hframe]
    rfl
  case metric => rw [succeedCommand_corr, collectAndEmit_corr, triggerStep_corr, hm]
  case nid2 => rw [succeedCommand_corrPos, collectAndEmit_corrPos, triggerStep_corrPos, hh]
  case shift => rw [succeedCommand_corrPos, collectAndEmit_corrPos, triggerStep_corrPos, hs]
  case swept => rw [succeedCommand_corrPos, collectAndEmit_corrPos, triggerStep_corrPos, latchSweep_corrPos]
  case peakOob =>
    simp only [succeedCommand_status, collectAndEmit_peakOob, triggerStep_peakOob, latchSweep_status, latchSweep_snap,
      State.hits_iff, State.fits_iff]

/-- Settles O46: the effect of each such command commutes with a replacement of the detector state; what else it changes
is its frame. -/
theorem onlyDetectorCommandsTouchDetector : Obligations.OnlyDetectorCommandsTouchDetector := by
  unfold Obligations.OnlyDetectorCommandsTouchDetector
  intro i s t d hstep hreset hexec
  obtain ⟨_, _, _, hdet⟩ := exec_frame hexec
  exact ⟨hdet hstep hreset, exec_any_detector hstep hreset hexec d,
    fun hsss hok => exec_succeedsWriting hexec hok hstep hreset hsss⟩

end Sys2Proof.Machine
end

section
/-!
A failed command is precise: whether it fails a check or does not decode, the step makes the writes of R256 and no others
(60_exceptions.md R255, R256).
-/

namespace Sys2Proof.Machine

/-- The trap entry makes the writes of R256 and nothing else. -/
theorem failCommand_failsWith (s : State) (e : CmdError) : FailsWith s (failCommand s e) e.code e.info := rfl

/-- A decoded command that fails a check, whichever check of R255 it is, makes the writes of a failed command and no
others. -/
theorem exec_failsWith_of_error {i : Instr} {s : State} {e : CmdError} (herror : commandError i s = some e) :
    ∃ t, exec i s = .next t ∧ FailsWith s t e.code e.info :=
  ⟨failCommand s e, exec_of_error herror, failCommand_failsWith s e⟩

/-! ### The obligation of 60_exceptions.md: what a failed command changes (R256) -/

/-- Settles O22: both failures end in the trap entry, the decoded command's with the error of its checks and the pending
word's with the reason it does not decode. -/
theorem failedCommandIsPrecise : Obligations.FailedCommandIsPrecise := by
  unfold Obligations.FailedCommandIsPrecise
  constructor
  · intro i s e herror
    exact exec_failsWith_of_error herror
  · intro s r hscript hbusy hdecode
    have hfails := step_failsWith_of_illegal hscript hbusy hdecode
    cases r with
    | reservedOpcode => exact hfails
    | mustBeZero => exact hfails

end Sys2Proof.Machine
end

section
/-!
Decoding and encoding are inverse: a word decodes to a command exactly if the command is well-formed and the word is the
sum of its opcode and its fields (30_encoding.md R90, R91, R96, R97, R99).
-/

namespace Sys2Proof

/-! ### Opcode and fields of a command -/

/-- A word passes a must-be-zero check exactly if it does not reach above its last field (R94). -/
theorem needZero_eq_instr (w : Word) {lo : Nat} (hlo : lo ≤ 32) (i j : Instr) :
    needZero w lo j = .instr i ↔ w.toNat / 2 ^ lo = 0 ∧ j = i := by
  rw [needZero, bitsOf_top w hlo]
  split <;> simp [*]

/-- Every command's opcode fits the low byte, above which its fields lie (R90). -/
theorem fieldsAboveOpcode (i : Instr) : Laws.FieldsAboveOpcode.Statement i := by
  cases i with
  | nop => exact Laws.FieldsAboveOpcode.nop
  | prsg => exact Laws.FieldsAboveOpcode.prsg
  | pssGen nid2 => exact Laws.FieldsAboveOpcode.pssGen nid2
  | sssGen nid1 nid2 => exact Laws.FieldsAboveOpcode.sssGen nid1 nid2
  | dmrsGen ncell issb nhf => exact Laws.FieldsAboveOpcode.dmrsGen ncell issb nhf
  | qpskMod => exact Laws.FieldsAboveOpcode.qpskMod
  | qpskDemod => exact Laws.FieldsAboveOpcode.qpskDemod
  | mapPss => exact Laws.FieldsAboveOpcode.mapPss
  | mapSss => exact Laws.FieldsAboveOpcode.mapSss
  | mapPbch nu => exact Laws.FieldsAboveOpcode.mapPbch nu
  | unmapSss => exact Laws.FieldsAboveOpcode.unmapSss
  | unmapPbch nu => exact Laws.FieldsAboveOpcode.unmapPbch nu
  | ssbGen nid1 nid2 issb nhf => exact Laws.FieldsAboveOpcode.ssbGen nid1 nid2 issb nhf
  | mapSsb koff loff => exact Laws.FieldsAboveOpcode.mapSsb koff loff
  | detReset issb => exact Laws.FieldsAboveOpcode.detReset issb
  | detStep => exact Laws.FieldsAboveOpcode.detStep
  | decodeSss nid2 => exact Laws.FieldsAboveOpcode.decodeSss nid2

/-- The opcode field of a command's word is its opcode (R90). -/
theorem opcode_of_toNat {w : Word} {i : Instr} (h : w.toNat = opcodeOf i + fieldsOf i) : bitsOf w 7 0 = opcodeOf i := by
  obtain ⟨hopcode, hfields, _⟩ := fieldsAboveOpcode i
  rw [bitsOf_opcode]
  omega

/-- A field's value is below its width's bound (R91). -/
theorem bitsOf_lt (w : Word) {hi lo n : Nat} (h : 2 ^ (hi + 1 - lo) ≤ n) : bitsOf w hi lo < n :=
  (Nat.mod_lt _ (Nat.two_pow_pos _)).trans_le h

/-! ### Decoding as a relation -/

/-- A word that decodes is made of its command's opcode and fields, each in its width: no bit is left over
(R96, R97). -/
theorem wellFormed_of_decode {w : Word} {i : Instr} (h : decode w = .instr i) :
    WellFormed i = true ∧ w.toNat = opcodeOf i + fieldsOf i := by
  have hlt : w.toNat < 2 ^ 32 := w.isLt
  rw [decode] at h
  split at h <;> rename_i hop
  case h_18 => exact absurd h nofun
  -- MAP_SSB is decoded with no check, as its format has no bit to check.
  case' h_14 => replace h := (needZero_all w _).trans h
  all_goals
    obtain ⟨hzero, rfl⟩ := (needZero_eq_instr w (by decide) _ _).1 h
    rw [bitsOf_opcode] at hop
    refine ⟨?_, by simp only [opcodeOf, fieldsOf, bitsOf]; omega⟩
    simp only [WellFormed, bitsOf_lt, Nat.reducePow, Nat.reduceSub, Nat.reduceAdd, le_refl, decide_true, Bool.and_self]

/-- The word of a well-formed command decodes to it (R96, R99). -/
theorem decode_of_wellFormed {w : Word} {i : Instr} (hwf : WellFormed i = true)
    (hw : w.toNat = opcodeOf i + fieldsOf i) : decode w = .instr i := by
  rw [decode, opcode_of_toNat hw]
  cases i
  case' mapSsb => refine (needZero_all w _).symm.trans ?_
  all_goals
    simp only [WellFormed, Bool.and_eq_true, decide_eq_true_eq] at hwf
    simp only [opcodeOf, fieldsOf] at hw
    refine (needZero_eq_instr w (by decide) _ _).2 ⟨by omega, ?_⟩
    congr <;> (simp only [bitsOf]; omega)

/-- Encoding a well-formed command gives the word of its opcode and fields (R99). -/
theorem encode_eq_some_iff (i : Instr) (w : Word) :
    encode i = some w ↔ WellFormed i = true ∧ w.toNat = opcodeOf i + fieldsOf i := by
  unfold encode
  split
  · next hwf =>
    obtain ⟨_, _, hlt⟩ := fieldsAboveOpcode i
    have hword : (BitVec.ofNat 32 (opcodeOf i + fieldsOf i)).toNat = opcodeOf i + fieldsOf i :=
      (BitVec.toNat_ofNat ..).trans (Nat.mod_eq_of_lt (hlt hwf))
    rw [Option.some.injEq, ← BitVec.toNat_inj, hword, eq_comm, and_iff_right hwf]
  · next hill => simp [hill]

/-- A word decodes to a command exactly if it is the command's encoding (R96, R97, R99). -/
theorem decode_eq_instr_iff (w : Word) (i : Instr) : decode w = .instr i ↔ encode i = some w := by
  rw [encode_eq_some_iff]
  exact ⟨wellFormed_of_decode, fun ⟨hwf, hw⟩ => decode_of_wellFormed hwf hw⟩

/-- Every well-formed command has an encoding (R99). -/
theorem exists_encode_of_wellFormed {i : Instr} (h : WellFormed i = true) : ∃ w, encode i = some w :=
  ⟨_, if_pos h⟩

end Sys2Proof

namespace Sys2Proof.Machine

/-! ### The obligations of 30_encoding.md: the round trips (R96, R97, R99) -/

/-- Settles O30: a well-formed command has an encoding, and that word decodes to it. -/
theorem decodeOfEncode : Obligations.DecodeOfEncode := by
  unfold Obligations.DecodeOfEncode
  intro i hwf
  obtain ⟨w, hw⟩ := exists_encode_of_wellFormed hwf
  exact ⟨w, hw, (decode_eq_instr_iff w i).2 hw⟩

/-- Settles O31: decoding leaves no bit of the word over, so the word is the encoding. -/
theorem encodeOfDecode : Obligations.EncodeOfDecode := by
  unfold Obligations.EncodeOfDecode
  intro w i h
  obtain ⟨hwf, _⟩ := wellFormed_of_decode h
  exact ⟨hwf, (decode_eq_instr_iff w i).1 h⟩

end Sys2Proof.Machine
end

section
/-!
Where a command writes: each write to DMEM stays inside the command's W regions, keeps the canonical form and lists no
address outside them (20_memory.md R60, R61, R67); and the canonical form determines the data.
-/

namespace Sys2Proof.Machine

/-! ### The canonical form determines the memory -/

/-- In the canonical form, reading an address finds the listed byte. -/
theorem Memory.byte?_eq_some {m : Memory} (h : m.wf) (a : Nat) (b : Byte) : m.byte? a = some b ↔ (a, b) ∈ m := by
  induction m with
  | nil => simp
  | cons c m ih =>
    obtain ⟨hfirst, hrest⟩ := List.pairwise_cons.1 h
    rw [Memory.byte?_cons, List.mem_cons]
    split
    · next ha =>
      subst ha
      have hnot : (c.1, b) ∉ m := fun hmem => lt_irrefl c.1 (hfirst (c.1, b) hmem)
      simp [hnot, Prod.ext_iff, eq_comm]
    · next ha =>
      have hne : (a, b) ≠ c := fun he => ha (he ▸ rfl)
      simp [ih hrest, hne]

/-- Two canonical memories that read the same are equal: their cells are the same, in the same order. -/
theorem Memory.ext_of_wf {m m' : Memory} (h : m.wf) (h' : m'.wf) (hread : ∀ a, m.byte? a = m'.byte? a) : m = m' := by
  have hnodup {l : Memory} (hl : l.wf) : l.Nodup := hl.imp fun hlt he => (he ▸ hlt).ne rfl
  have hperm : m.Perm m' := (List.perm_ext_iff_of_nodup (hnodup h) (hnodup h')).2 fun c => by
    rw [← Memory.byte?_eq_some h, ← Memory.byte?_eq_some h', hread]
  exact hperm.eq_of_pairwise (fun _ _ _ _ hlt hgt => absurd hlt hgt.asymm) h h'

/-! ### Writes within a set of addresses -/

/-- From `m` to `m'` only bytes at addresses in `P` were written, and the canonical form was kept. -/
structure WritesWithin (P : Nat → Prop) (m m' : Memory) : Prop where
  wf : m.wf → m'.wf
  outside : ∀ x, ¬ P x → m'.byte? x = m.byte? x
  listed : ∀ c ∈ m', c ∈ m ∨ P c.1

theorem WritesWithin.refl (P : Nat → Prop) (m : Memory) : WritesWithin P m m :=
  ⟨id, fun _ _ => rfl, fun _ => .inl⟩

theorem WritesWithin.trans {P : Nat → Prop} {m m' m'' : Memory} (h : WritesWithin P m m') (h' : WritesWithin P m' m'') :
    WritesWithin P m m'' :=
  ⟨h'.wf ∘ h.wf, fun x hx => (h'.outside x hx).trans (h.outside x hx),
    fun c hc => (h'.listed c hc).elim (h.listed c) .inr⟩

/-- Consecutive words are written within their addresses. -/
theorem writesWithin_writeWords {P : Nat → Prop} (m : Memory) {a : Nat} {ws : List Word}
    (h : ∀ x, a ≤ x → x < a + 4 * ws.length → P x) : WritesWithin P m (m.writeWords a ws) where
  wf hm := Memory.wf_writeWords hm a ws
  outside x hx := by
    rw [Memory.writeWords, Memory.byte?_writeBytes, if_neg]
    rw [flatMap_wordBytes_length]
    exact fun hin => hx (h x hin.1 hin.2)
  listed c hc := (Memory.mem_writeBytes hc).imp_right fun ⟨hlo, hhi⟩ =>
    h c.1 hlo (by rwa [flatMap_wordBytes_length] at hhi)

/-- Addresses outside the written ones read as before. -/
theorem WritesWithin.byteAt_eq {P : Nat → Prop} {s t : State} (h : WritesWithin P s.mem t.mem) {x : Nat} (hx : ¬ P x) :
    t.byteAt x = s.byteAt x := by
  rw [State.byteAt, h.outside x hx, State.byteAt]

/-! ### Writes within the W regions of a command (R67) -/

/-- The address is in a W region of the list. -/
def InOutputs (rs : List Region) (x : Nat) : Prop :=
  ∃ r ∈ rs, r.op.isDst = true ∧ r.start ≤ x ∧ x < r.start + 4 * r.words

theorem not_inOutputs_iff (rs : List Region) (x : Nat) :
    ¬ InOutputs rs x ↔ ∀ r ∈ rs, r.op.isDst = true → x < r.start ∨ r.start + 4 * r.words ≤ x := by
  simp only [InOutputs, not_exists, not_and, Nat.not_lt]
  refine forall₃_congr fun r _ _ => ?_
  omega

/-- Samples that fill a W region are written within the command's outputs. -/
theorem writesWithin_writeSamples {rs : List Region} (r : Region) (hr : r ∈ rs) (hdst : r.op.isDst = true) (s : State)
    {xs : List Sample} (hlength : xs.length = r.words) :
    WritesWithin (InOutputs rs) s.mem (s.writeSamples r.start xs).mem :=
  writesWithin_writeWords s.mem fun x hlo hhi => ⟨r, hr, hdst, hlo, by rwa [List.length_map, hlength] at hhi⟩

/-- A bit vector that fills a W region is written within the command's outputs. -/
theorem writesWithin_writeBits {rs : List Region} (r : Region) (hr : r ∈ rs) (hdst : r.op.isDst = true) (s : State)
    {bs : List Bool} (hlength : bitWords bs.length = r.words) :
    WritesWithin (InOutputs rs) s.mem (s.writeBits r.start bs).mem :=
  writesWithin_writeWords s.mem fun x hlo hhi => ⟨r, hr, hdst, hlo, by rwa [packBits_length, hlength] at hhi⟩

theorem ssbGrid_length (par : Params) (nid1 nid2 lMax issb nhf : Nat) (p : List Sample) :
    (ssbGrid par nid1 nid2 lMax issb nhf p).length = 960 := by
  simp only [ssbGrid, place_length, zeroGrid_length]

/-- MAP_SSB's rows lie in the hull that R67 names as its output (R191). -/
theorem inOutputs_ssbRow {S : Snapshot} {koff loff l x : Nat} (hl : l < 4) (hlo : S.resourceAddr koff (loff + l) ≤ x)
    (hhi : x < S.resourceAddr koff (loff + l) + 4 * 240) : InOutputs (namedRegions (.mapSsb koff loff) S) x := by
  refine ⟨_, .tail _ (.head _), rfl, ?_⟩
  have hsplit : S.nSc * (loff + l) = S.nSc * loff + S.nSc * l := Nat.mul_add ..
  have hspan : S.nSc * l ≤ S.nSc * 3 := Nat.mul_le_mul_left _ (by omega)
  simp only [Snapshot.resourceAddr] at hlo hhi ⊢
  omega

/-- MAP_SSB writes within its hull (R191). -/
theorem writesWithin_writeSsb (s : State) (koff loff : Nat) {g : Grid} (hg : g.length = 960) :
    WritesWithin (InOutputs (namedRegions (.mapSsb koff loff) s.snap)) s.mem (writeSsb s koff loff g).mem := by
  have hrow (u : State) {l : Nat} (hl : l < 4) :
      WritesWithin (InOutputs (namedRegions (.mapSsb koff loff) s.snap)) u.mem
        (u.writeSamples (s.snap.resourceAddr koff (loff + l)) (gridColumn g l)).mem := by
    refine writesWithin_writeWords u.mem fun x hlo hhi => inOutputs_ssbRow hl hlo ?_
    rwa [List.length_map, gridColumn_length g hg l hl] at hhi
  rw [writeSsb_eq]
  exact (((hrow _ (by decide : 0 < 4)).trans (hrow _ (by decide : 1 < 4))).trans (hrow _ (by decide : 2 < 4))).trans
    (hrow _ (by decide : 3 < 4))

/-! ### Writes of a detector step (R219, R220) -/

/-- A DET_STEP that passes its checks has legal operands and a legal configuration; `commandError_detStep` is the
converse. -/
theorem detReady_of_ok {s : State} (h : commandError .detStep s = none) : DetReady s := by
  obtain ⟨hfields, hregions⟩ := (commandError_eq_none .detStep s).1 h
  obtain ⟨hsrc, hdst, hapart⟩ := (regionChecks_two _ _ _ rfl rfl).1 hregions
  simp only [fieldChecks, List.mem_cons, List.not_mem_nil, or_false, forall_eq_or_imp, forall_eq, check_eq_none,
    Snapshot.nRbLegal_eq, Snapshot.lMaxLegal_eq, decide_eq_true_eq] at hfields
  obtain ⟨hnRb, hlMax, hwindow⟩ := hfields
  exact ⟨hnRb, hlMax, (Detector.windowFits_iff _ _).1 hwindow, hsrc, hdst, hapart⟩

/-- Collection and emission write, if anything, the 960 words at `DST0`. -/
theorem writesWithin_collectAndEmit {u : State} {y : List Sample} (hbuf : u.det.buf.length = 960)
    (hwindow : u.det.srem ≠ .searching → u.det.kssb.toNat + 240 ≤ y.length) {rs : List Region}
    (hr : plainRegion .dst0 u.snap.dst0 960 ∈ rs) :
    WritesWithin (InOutputs rs) u.mem (collectAndEmit u y).mem := by
  rcases collectAndEmit_cases u y with ⟨_, e⟩ | ⟨_, _, _, e⟩ | ⟨hsrem, e⟩
  · rw [e]; exact .refl ..
  · rw [e]; exact .refl ..
  · obtain ⟨_, hlength, _, _⟩ := u.det.collect_spec y 0 hsrem hbuf (hwindow (by simp [hsrem]))
    rw [e]
    exact writesWithin_writeSamples _ hr rfl { u with det := u.det.collect y } hlength

/-! ### Writes of every command -/

/-- What a command that succeeds leaves in DMEM is what its effect leaves. -/
theorem mem_of_exec {i : Instr} {s t u : State} (hexec : exec i s = .next t)
    (hok : exec i s = .next (succeedCommand u)) : t.mem = u.mem := by
  rw [hok, Host.Outcome.next.injEq] at hexec
  rw [← hexec, succeedCommand_mem]

/-- A well-formed command writes DMEM within its W regions alone (R61, R67). -/
theorem exec_writesWithin {i : Instr} {s t : State} (hwf : WellFormed i = true) (hexec : exec i s = .next t)
    (hbuf : i = .detStep → s.det.buf.length = 960) :
    WritesWithin (InOutputs (namedRegions i s.snap)) s.mem t.mem := by
  rcases exec_cases hexec with ⟨e, _, rfl⟩ | hok
  · exact .refl ..
  cases i with
  | nop => rw [mem_of_exec hexec (exec_nop_ok hok)]; exact .refl ..
  | detReset issb => rw [mem_of_exec hexec (exec_detReset_ok hok)]; exact .refl ..
  | decodeSss nid2 => rw [mem_of_exec hexec (exec_decodeSss_ok hok)]; exact .refl ..
  | prsg =>
    rw [mem_of_exec hexec (exec_prsg_ok hok)]
    exact writesWithin_writeBits _ (.head _) rfl s (by rw [prsg_length]; rfl)
  | pssGen nid2 =>
    rw [mem_of_exec hexec (exec_pssGen_ok hok)]
    exact writesWithin_writeSamples _ (.head _) rfl s (by rw [List.length_map, pss_length]; rfl)
  | sssGen nid1 nid2 =>
    rw [mem_of_exec hexec (exec_sssGen_ok hok)]
    exact writesWithin_writeSamples _ (.head _) rfl s (by rw [List.length_map, sss_length]; rfl)
  | dmrsGen ncell issb nhf =>
    rw [mem_of_exec hexec (exec_dmrsGen_ok hok)]
    exact writesWithin_writeSamples _ (.head _) rfl s (dmrs_length ..)
  | qpskMod =>
    rw [mem_of_exec hexec (exec_qpskMod_ok hok)]
    exact writesWithin_writeSamples _ (.tail _ (.head _)) rfl s (by rw [qpskPairs_length, State.readBits_length]; rfl)
  | qpskDemod =>
    rw [mem_of_exec hexec (exec_qpskDemod_ok hok)]
    exact writesWithin_writeBits _ (.tail _ (.head _)) rfl s
      (by rw [flatMap_pairs_length _ (fun _ => rfl), State.readSamples_length]; rfl)
  | mapPss =>
    rw [mem_of_exec hexec (exec_mapPss_ok hok)]
    exact writesWithin_writeSamples _ (.tail _ (.head _)) rfl s (syncGrid_length ..)
  | mapSss =>
    rw [mem_of_exec hexec (exec_mapSss_ok hok)]
    exact writesWithin_writeSamples _ (.tail _ (.head _)) rfl s (syncGrid_length ..)
  | mapPbch nu =>
    rw [mem_of_exec hexec (exec_mapPbch_ok hok)]
    exact writesWithin_writeSamples _ (.tail _ (.tail _ (.head _))) rfl s (pbchGrid_length ..)
  | unmapSss =>
    rw [mem_of_exec hexec (exec_unmapSss_ok hok)]
    exact writesWithin_writeSamples _ (.tail _ (.head _)) rfl s (by rw [gather_length, syncIdx_length]; rfl)
  | unmapPbch nu =>
    have hnu : nu < 4 := of_decide_eq_true hwf
    rw [mem_of_exec hexec (exec_unmapPbch_ok hok)]
    exact (writesWithin_writeSamples _ (.tail _ (.head _)) rfl s (by rw [gather_length, pbchIdx_len nu hnu]; rfl)).trans
      (writesWithin_writeSamples _ (.tail _ (.tail _ (.head _))) rfl _ (by rw [gather_length, dmrsIdx_len nu hnu]; rfl))
  | ssbGen nid1 nid2 issb nhf =>
    rw [mem_of_exec hexec (exec_ssbGen_ok hok)]
    exact writesWithin_writeSamples _ (.tail _ (.head _)) rfl s (ssbGrid_length ..)
  | mapSsb koff loff =>
    rw [mem_of_exec hexec (exec_mapSsb_ok hok)]
    exact writesWithin_writeSsb s koff loff (State.readGrid_length s s.snap.src0.toNat)
  | detStep =>
    have hready := detReady_of_ok hok
    obtain ⟨hsame, hwindow⟩ := triggerStep_window hready
    have hout : plainRegion .dst0 s.snap.dst0 960 ∈ namedRegions .detStep s.snap := .tail _ (.head _)
    have hwrites := writesWithin_collectAndEmit ((congrArg List.length hsame).trans (hbuf rfl)) hwindow
      (by rwa [triggerStep_snap, latchSweep_snap])
    rw [mem_of_exec hexec (exec_detStep_ready hready)]
    rwa [triggerStep_mem, latchSweep_mem] at hwrites

/-! ### The obligations of 20_memory.md: the canonical form and the output regions (R61, R67) -/

/-- Settles O50: reading every address finds every cell, and the rising order fixes their places. -/
theorem canonicalMemoryIsExtensional : Obligations.CanonicalMemoryIsExtensional := by
  unfold Obligations.CanonicalMemoryIsExtensional
  intro m m' h h' hread
  exact Memory.ext_of_wf h h' hread

/-- Settles O48: every write of a command is within its W regions. -/
theorem writesStayInsideOutputRegions : Obligations.WritesStayInsideOutputRegions := by
  unfold Obligations.WritesStayInsideOutputRegions
  intro i s t x hwf hexec hbuf hx
  exact (exec_writesWithin hwf hexec hbuf).byteAt_eq ((not_inOutputs_iff _ x).2 hx)

end Sys2Proof.Machine
end

section
/-!
The completion of a command: it succeeds or fails, what it leaves unchanged either way, that it reads its snapshot and
not the registers, and what settling a race adds to it (10_state.md R40, R43 to R45, 20_memory.md R72,
70_reset_and_hazards.md R303).
-/

namespace Sys2Proof.Machine

/-! ### Success -/

/-- All that a command that succeeds can change: BUSY falls and DONE rises, the other changes are the correlation
engine's and DMEM's (R43). -/
theorem exec_ok_frame {i : Instr} {s t : State} (hexec : exec i s = .next t) (hok : commandError i s = none) :
    t = { s with
      status := { s.status with
        busy := false, done := true
        peakOob := t.status.peakOob, detValid := t.status.detValid, detOvf := t.status.detOvf }
      det := t.det, detRes := t.detRes, corr := t.corr, corrPos := t.corrPos, sssRes := t.sssRes
      sssCorr := t.sssCorr, mem := t.mem } := by
  cases i with
  | detStep =>
    have hframe := detStep_frame s (s.readSamples s.snap.src0.toNat s.snap.nSc)
    rw [exec_detStep_ok hok, Host.Outcome.next.injEq] at hexec
    generalize detStep s (s.readSamples s.snap.src0.toNat s.snap.nSc) = u at hframe hexec
    rw [← hexec, hframe]
    rfl
  | detReset issb =>
    rw [exec_detReset_ok hok, Host.Outcome.next.injEq] at hexec
    rw [← hexec]
    rfl
  | decodeSss nid2 =>
    rw [exec_decodeSss_ok hok, Host.Outcome.next.injEq] at hexec
    simp only at hexec
    rw [← hexec]
    rfl
  | _ =>
    have hwrites : SucceedsWriting s t := exec_succeedsWriting hexec hok nofun nofun nofun
    rw [SucceedsWriting] at hwrites
    rw [hwrites]

/-- An error's code is one of R251's. -/
theorem ErrCode.one_le_code (c : ErrCode) : 1 ≤ c.code.toNat := by cases c <;> decide

/-! ### The registers a pending command does not read (R40, R303) -/

/-- The operand and configuration registers (R25 to R29). -/
structure OperandRegs where
  src0 : Word
  src1 : Word
  dst0 : Word
  dst1 : Word
  len : Word
  cinit : BitVec 31
  cfg : Cfg
  threshLo : Word
  threshHi : Word

/-- The operand and configuration registers of a state. -/
def State.regs (s : State) : OperandRegs :=
  ⟨s.src0, s.src1, s.dst0, s.dst1, s.len, s.cinit, s.cfg, s.threshLo, s.threshHi⟩

/-- The state with other operand and configuration registers. -/
def State.withRegs (s : State) (r : OperandRegs) : State :=
  { s with
    src0 := r.src0, src1 := r.src1, dst0 := r.dst0, dst1 := r.dst1, len := r.len, cinit := r.cinit, cfg := r.cfg
    threshLo := r.threshLo, threshHi := r.threshHi }

/-- A write to one of these registers replaces them by values that depend on them alone. -/
theorem writeReg_eq_withRegs {off : Nat}
    (hoff : off ∈ [0x010, 0x014, 0x018, 0x01C, 0x020, 0x024, 0x028, 0x02C, 0x030]) (v : Word) :
    ∃ u : OperandRegs → OperandRegs, ∀ s : State, s.writeReg off v = s.withRegs (u s.regs) := by
  simp only [List.mem_cons, List.not_mem_nil, or_false] at hoff
  rcases hoff with rfl | rfl | rfl | rfl | rfl | rfl | rfl | rfl | rfl
  · exact ⟨fun r => { r with src0 := v }, fun _ => rfl⟩
  · exact ⟨fun r => { r with src1 := v }, fun _ => rfl⟩
  · exact ⟨fun r => { r with dst0 := v }, fun _ => rfl⟩
  · exact ⟨fun r => { r with dst1 := v }, fun _ => rfl⟩
  · exact ⟨fun r => { r with len := v }, fun _ => rfl⟩
  · exact ⟨fun r => { r with cinit := v.extractLsb' 0 31 }, fun _ => rfl⟩
  · exact ⟨fun r => { r with cfg := Cfg.ofWord v }, fun _ => rfl⟩
  · exact ⟨fun r => { r with threshLo := v }, fun _ => rfl⟩
  · exact ⟨fun r => { r with threshHi := v }, fun _ => rfl⟩

/-- MAP_SSB's writes carry the registers along. -/
theorem writeSsb_withRegs (s : State) (r : OperandRegs) (koff loff : Nat) (g : Grid) :
    writeSsb (s.withRegs r) koff loff g = (writeSsb s koff loff g).withRegs r := by
  rw [writeSsb_eq, writeSsb_eq]
  rfl

/-- The trigger decision carries the registers along. -/
theorem triggerStep_withRegs (s : State) (r : OperandRegs) (w : Sweep) :
    triggerStep (s.withRegs r) w = (triggerStep s w).withRegs r := by
  simp only [triggerStep, apply_ite (State.withRegs · r)]
  rfl

/-- Collection and emission carry the registers along. -/
theorem collectAndEmit_withRegs (s : State) (r : OperandRegs) (y : List Sample) :
    collectAndEmit (s.withRegs r) y = (collectAndEmit s y).withRegs r := by
  simp only [collectAndEmit, apply_ite (State.withRegs · r)]
  rfl

/-- A detector step carries the registers along. -/
theorem detStep_withRegs (s : State) (r : OperandRegs) (y : List Sample) :
    detStep (s.withRegs r) y = (detStep s y).withRegs r := by
  simp only [detStep]
  rw [← collectAndEmit_withRegs, ← triggerStep_withRegs]
  rfl

/-- Every command has the same checks and the same effect whatever these registers hold, and its effect carries them
along: it reads its snapshot. -/
theorem exec_complete_withRegs (i : Instr) :
    ∃ f : State → State, (∀ s, exec i s = .next (complete (commandError i s) s f)) ∧
      ∀ (s : State) (r : OperandRegs), f (s.withRegs r) = (f s).withRegs r := by
  cases i with
  | mapSsb koff loff => exact ⟨_, fun _ => rfl, fun s r => writeSsb_withRegs s r koff loff _⟩
  | detStep => exact ⟨_, fun _ => rfl, fun s r => detStep_withRegs s r _⟩
  | _ => exact ⟨_, fun _ => rfl, fun _ _ => rfl⟩

/-- A command does the same whatever the operand and configuration registers hold (R303). -/
theorem exec_withRegs {i : Instr} {s t : State} (hexec : exec i s = .next t) (r : OperandRegs) :
    exec i (s.withRegs r) = .next (t.withRegs r) := by
  obtain ⟨f, hf, hcarry⟩ := exec_complete_withRegs i
  rw [hf, Host.Outcome.next.injEq] at hexec
  rw [hf, ← hexec, Host.Outcome.next.injEq, show commandError i (s.withRegs r) = commandError i s from rfl]
  cases commandError i s with
  | some e => rfl
  | none => rw [complete_none, complete_none, hcarry]; rfl

/-- A command leaves the operand and configuration registers. -/
theorem exec_regs {i : Instr} {s t : State} (hexec : exec i s = .next t) : t.regs = s.regs := by
  obtain ⟨hframe, _⟩ := exec_frame hexec
  rw [hframe]
  rfl

/-! ### A race (R72) -/

/-- The words that a race leaves free are in the command's W regions (R67, R191). -/
theorem inOutputs_of_outputSpans {i : Instr} {S : Snapshot} {p : Nat × Nat} (hp : p ∈ outputSpans i S) {x : Nat}
    (hlo : p.1 ≤ x) (hhi : x < p.1 + 4 * p.2) : InOutputs (namedRegions i S) x := by
  cases i with
  | mapSsb koff loff =>
    obtain ⟨l, hl, rfl⟩ := List.mem_map.1 hp
    exact inOutputs_ssbRow (List.mem_range.1 hl) hlo hhi
  | _ =>
    obtain ⟨r, hr, rfl⟩ := List.mem_map.1 hp
    obtain ⟨hmem, hdst⟩ := List.mem_filter.1 hr
    exact ⟨r, hmem, hdst, hlo, hhi⟩

/-- Settling a race leaves the bytes outside the command's W regions. -/
theorem settleRace_byteAt {i : Instr} {s t : State} {x : Nat} (hx : ¬ InOutputs (namedRegions i s.snap) x) :
    (settleRace i s t).byteAt x = t.byteAt x := by
  rcases settleRace_cases i s t with e | ⟨_, _, e⟩
  · rw [e]
  · rw [e, havocSpans_byteAt _ _ _ fun p hp => ?_, havocResults_frame]
    · rfl
    · by_contra hin
      exact hx (inOutputs_of_outputSpans hp (by omega) (by omega))

/-- Settling a race leaves the result registers of other commands. -/
theorem settleRace_results (i : Instr) (s t : State) :
    (i ≠ .detStep → (settleRace i s t).detRes = t.detRes ∧ (settleRace i s t).corr = t.corr ∧
      (settleRace i s t).corrPos = t.corrPos) ∧
    ((∀ n, i ≠ .decodeSss n) → (settleRace i s t).sssRes = t.sssRes ∧ (settleRace i s t).sssCorr = t.sssCorr) := by
  rcases settleRace_cases i s t with e | ⟨_, _, e⟩
  · rw [e]
    exact ⟨fun _ => ⟨rfl, rfl, rfl⟩, fun _ => ⟨rfl, rfl⟩⟩
  · rw [e, havocSpans_frame]
    exact havocResults_of_ne i t

/-! ### The engine's turn (R43) -/

/-- With no move to come or the engine's next, a step is the engine's turn. -/
theorem step_engine {s s0 : State}
    (h : s.script = [] ∧ s0 = s ∨ ∃ rest, s.script = .engine :: rest ∧ s0 = { s with script := rest }) :
    step s = engineStep s0 := by
  rcases h with ⟨hscript, rfl⟩ | ⟨rest, hscript, rfl⟩
  · rw [step, hscript]
  · exact step_of_script_cons hscript

/-- The completion of a word that decodes: refused at a device window, else `exec` and the race after it. -/
theorem completion_of_decode {s : State} {i : Instr} (hdecode : decode s.snap.cmdw = .instr i) :
    completion s = if reachesDevice i s then .refused .deviceRegion else settleOutcome i s (exec i s) := by
  rw [completion, hdecode]

/-- With no device window no region reaches one (R75). -/
theorem reachesDevice_of_no_window {s : State} (h : s.params.deviceWindows = []) (i : Instr) :
    reachesDevice i s = false := by
  simp [reachesDevice, h]

/-- Settling a race that did not happen leaves the outcome. -/
theorem settleOutcome_of_not_raced {s : State} (h : s.raced = false) (i : Instr)
    (o : Host.Outcome State Fault Refusal) : settleOutcome i s o = o := by
  cases o with
  | next t => rw [settleOutcome, settleRace_of_not_raced i s t h]
  | fault r => rfl
  | refused r => rfl

/-! ### The obligations of 10_state.md: completion -/

/-- Settles O1: NOP has no check and no effect. -/
theorem nopOnlyCompletes : Obligations.NopOnlyCompletes := by
  unfold Obligations.NopOnlyCompletes
  intro s
  exact exec_nop_ok rfl

/-- Settles O23: with an error the state is the trap entry's, without one BUSY falls and DONE rises. -/
theorem everyCommandCompletes : Obligations.EveryCommandCompletes := by
  unfold Obligations.EveryCommandCompletes
  intro i s
  obtain ⟨f, hf⟩ := exec_complete i
  refine ⟨_, hf s, ?_⟩
  cases herr : commandError i s with
  | some e =>
    exact ⟨rfl, rfl, rfl, .inr ⟨nofun, rfl, rfl, e.code.one_le_code, e.code.code_le, rfl⟩⟩
  | none =>
    have hexec := hf s
    rw [herr] at hexec
    rw [exec_ok_frame hexec herr]
    exact ⟨rfl, rfl, rfl, .inl ⟨rfl, rfl, rfl, rfl, rfl, rfl⟩⟩

/-- Settles O45: the write replaces registers that the command neither reads nor writes. -/
theorem snapshotIsolatesPendingCommand : Obligations.SnapshotIsolatesPendingCommand := by
  unfold Obligations.SnapshotIsolatesPendingCommand
  intro i s t off v hoff hexec
  obtain ⟨u, hu⟩ := writeReg_eq_withRegs hoff v
  rw [hu s, hu t, exec_regs hexec]
  exact exec_withRegs hexec _

/-- Settles O47: by the frame of `exec`. -/
theorem commandsKeepOtherRegisters : Obligations.CommandsKeepOtherRegisters := by
  unfold Obligations.CommandsKeepOtherRegisters
  intro i s t hexec
  obtain ⟨hframe, hdet, hsss, _⟩ := exec_frame hexec
  refine ⟨?_, hdet, hsss⟩
  rw [hframe]
  exact ⟨rfl, rfl, rfl, rfl, rfl, rfl, rfl, rfl, rfl, rfl, rfl, rfl, rfl⟩

/-- Settles O49: the free words are the command's outputs and the free registers its results. -/
theorem raceAffectsOnlyOutputs : Obligations.RaceAffectsOnlyOutputs := by
  unfold Obligations.RaceAffectsOnlyOutputs
  intro i s t x _ hx
  exact ⟨_, rfl, settleRace_byteAt ((not_inOutputs_iff _ x).2 hx), settleRace_frame i s t, settleRace_results i s t⟩

/-- Settles O35: the engine's turn decodes the word, and the device check and the race frame `exec`. -/
theorem stepRunsDecodedCommand : Obligations.StepRunsDecodedCommand := by
  unfold Obligations.StepRunsDecodedCommand
  intro s s0 i hs0 hbusy hdecode
  obtain ⟨hstatus, hsnap, hraced, hdevice⟩ : s0.status = s.status ∧ s0.snap = s.snap ∧ s0.raced = s.raced ∧
      reachesDevice i s0 = reachesDevice i s := by
    rcases hs0 with ⟨_, rfl⟩ | ⟨_, _, rfl⟩ <;> exact ⟨rfl, rfl, rfl, rfl⟩
  rw [step_engine hs0, engineStep, if_pos (hstatus ▸ hbusy), completion_of_decode (hsnap ▸ hdecode), hdevice]
  refine ⟨fun hwindows hquiet => ?_, fun hreach => if_pos hreach, fun hreach t hexec => ?_⟩
  · rw [reachesDevice_of_no_window hwindows, if_neg Bool.false_ne_true, settleOutcome_of_not_raced (hraced ▸ hquiet)]
  · rw [hreach, if_neg Bool.false_ne_true, hexec, settleOutcome]

end Sys2Proof.Machine
end

section
/-!
The invariant of the machine holds at reset and every step keeps it (10_state.md R23, R41, R42, 20_memory.md R60,
43_correlator.md R216 to R218, 60_exceptions.md R251, R256, R259): one part each for STATUS, DMEM and the detector, kept
by the operations that change it.
-/

namespace Sys2Proof.Machine

/-! ### The invariant in parts -/

/-- The part of the invariant about `STATUS` (R23, R42, R251). -/
structure Status.Legal (t : Status) : Prop where
  busyNotDone : t.busy = true → t.done = false
  busyNotErr : t.busy = true → t.err = false
  errCodeZero : t.err = false ↔ t.errCode = 0#4
  errCodeLegal : t.errCode.toNat ≤ 7

/-- The part of the invariant about DMEM (R60). -/
structure Memory.Legal (m : Memory) (size : Nat) : Prop where
  wf : m.wf
  inside : ∀ c ∈ m, c.1 < size

/-- The part of the invariant about the detector (R41, R216, R218). -/
structure Detector.Legal (d : Detector) : Prop where
  nid2 : d.nid2.toNat ≤ 2
  srem : d.srem ≠ .collecting 3
  window : d.kssb.toNat + 240 ≤ 12 * Config.nRbMax
  buf : d.buf.length = 960

theorem State.Inv.status_legal {s : State} (h : s.Inv) : s.status.Legal :=
  ⟨h.busyNotDone, h.busyNotErr, h.errCodeZero, h.errCodeLegal⟩

theorem State.Inv.mem_legal {s : State} (h : s.Inv) : s.mem.Legal s.params.dmemSize := ⟨h.memWf, h.memInside⟩

theorem State.Inv.det_legal {s : State} (h : s.Inv) : s.det.Legal :=
  ⟨h.nid2Legal, h.sremLegal, h.windowLegal, h.bufLength⟩

theorem State.inv_of_legal {s : State} (hparams : s.params.wf) (hstatus : s.status.Legal)
    (hmem : s.mem.Legal s.params.dmemSize) (hdet : s.det.Legal) : s.Inv where
  params := hparams
  memWf := hmem.wf
  memInside := hmem.inside
  busyNotDone := hstatus.busyNotDone
  busyNotErr := hstatus.busyNotErr
  errCodeZero := hstatus.errCodeZero
  errCodeLegal := hstatus.errCodeLegal
  nid2Legal := hdet.nid2
  sremLegal := hdet.srem
  windowLegal := hdet.window
  bufLength := hdet.buf

/-! ### STATUS -/

/-- No flag set is legal (R46). -/
theorem Status.legal_reset : Status.Legal ⟨false, false, false, false, false, false, false, 0#4⟩ :=
  ⟨nofun, nofun, by decide, by decide⟩

/-- A failed command sets ERR with a code of R251 (R256). -/
theorem Status.Legal.fail (t : Status) (c : ErrCode) :
    Status.Legal { t with busy := false, err := true, errCode := c.code } where
  busyNotDone := nofun
  busyNotErr := nofun
  errCodeZero := iff_of_false nofun c.code_ne_zero
  errCodeLegal := c.code_le

/-- ERR, ERR_CODE and the other flags of a status that is not BUSY decide whether it is legal. -/
theorem Status.Legal.of_idle {t u : Status} (h : t.Legal) (hbusy : u.busy = false) (herr : u.err = t.err)
    (hcode : u.errCode = t.errCode) : u.Legal where
  busyNotDone hb := absurd hb (by simp [hbusy])
  busyNotErr hb := absurd hb (by simp [hbusy])
  errCodeZero := herr ▸ hcode ▸ h.errCodeZero
  errCodeLegal := hcode ▸ h.errCodeLegal

/-- An accepted command clears DONE, and ERR is 0 (R42). -/
theorem Status.Legal.pend {t : Status} (h : t.Legal) (herr : t.err = false) :
    Status.Legal { t with busy := true, done := false } where
  busyNotDone _ := rfl
  busyNotErr _ := herr
  errCodeZero := h.errCodeZero
  errCodeLegal := h.errCodeLegal

/-- Clearing W1C bits clears ERR_CODE with ERR and sets nothing (R23). -/
theorem Status.Legal.w1c {t : Status} (h : t.Legal) (w : Word) : (t.w1c w).Legal where
  busyNotDone hb := by simp [h.busyNotDone hb]
  busyNotErr hb := by simp [h.busyNotErr hb]
  errCodeZero := by
    rw [Status.w1c_err, Status.w1c_errCode]
    cases w.getLsbD 2
    · simpa using h.errCodeZero
    · simp
  errCodeLegal := by
    rw [Status.w1c_errCode]
    split
    · decide
    · exact h.errCodeLegal

/-! ### DMEM -/

/-- Writes within addresses of DMEM keep DMEM legal. -/
theorem WritesWithin.legal {P : Nat → Prop} {m m' : Memory} {size : Nat} (h : WritesWithin P m m') (hm : m.Legal size)
    (hP : ∀ x, P x → x < size) : m'.Legal size :=
  ⟨h.wf hm.wf, fun c hc => (h.listed c hc).elim (hm.inside c) (hP c.1)⟩

/-- A write of bytes inside DMEM keeps it legal. -/
theorem Memory.Legal.writeBytes {m : Memory} {size : Nat} (h : m.Legal size) {a : Nat} {bs : List Byte}
    (hin : a + bs.length ≤ size) : (m.writeBytes a bs).Legal size :=
  ⟨Memory.wf_writeBytes h.wf a bs, fun c hc => (Memory.mem_writeBytes hc).elim (h.inside c) fun ⟨_, hhi⟩ => by omega⟩

/-- Words that take any value keep DMEM legal: they are clipped to it. -/
theorem Memory.Legal.havocSpans {s : State} (h : s.mem.Legal s.params.dmemSize) (l : List (Nat × Nat)) :
    (Machine.havocSpans s l).mem.Legal s.params.dmemSize :=
  have ⟨hwf, hinside⟩ := havocSpans_mem s l h.wf h.inside
  ⟨hwf, hinside⟩

/-- The W regions of a command that passes its checks are in DMEM (R63). -/
theorem inOutputs_lt {i : Instr} {s : State} (hok : commandError i s = none) {x : Nat}
    (hx : InOutputs (namedRegions i s.snap) x) : x < s.params.dmemSize := by
  obtain ⟨r, hr, _, _, hhi⟩ := hx
  obtain ⟨_, hrange⟩ := region_ok_of_commandError hok hr
  omega

/-! ### The detector -/

/-- A re-created detector is legal, whatever its counter and the 960 samples of `BUF` (R46, R211). -/
theorem Detector.legal_searching (issb : BitVec 6) {buf : List Sample} (hbuf : buf.length = 960) :
    Detector.Legal ⟨.searching, 0#2, 0#12, issb, buf⟩ where
  nid2 := show (0#2).toNat ≤ 2 by decide
  srem := nofun
  window := show (0#12).toNat + 240 ≤ 12 * Config.nRbMax by decide
  buf := hbuf

theorem Srem.pred_ne_three (k : Fin 4) : Srem.pred k ≠ .collecting 3 := by
  revert k
  decide

/-- Collection leaves a legal detector, also right after a trigger: it counts SREM = 3 down (R218). -/
theorem Detector.legal_collect {d : Detector} {y : List Sample} (hnid2 : d.nid2.toNat ≤ 2)
    (hkssb : d.kssb.toNat + 240 ≤ 12 * Config.nRbMax) (hbuf : d.buf.length = 960)
    (hwindow : d.srem ≠ .searching → d.kssb.toNat + 240 ≤ y.length) : (d.collect y).Legal := by
  cases hsrem : d.srem with
  | searching =>
    have e : d.collect y = d := by rw [Detector.collect, hsrem]
    rw [e]
    exact ⟨hnid2, by simp [hsrem], hkssb, hbuf⟩
  | collecting k =>
    obtain ⟨e, hlength, _⟩ := d.collect_spec y k hsrem hbuf (hwindow (by simp [hsrem]))
    rw [e] at hlength ⊢
    exact ⟨hnid2, Srem.pred_ne_three k, hkssb, hlength⟩

/-- The trigger decision keeps the candidate's ranges: a triggering peak's window fits the symbol (R216, R217). -/
theorem triggerStep_ranges {s : State} (hready : DetReady s) (h : s.det.Legal) :
    (triggerStep (latchSweep s s.sweepResult) s.sweepResult).det.nid2.toNat ≤ 2 ∧
      (triggerStep (latchSweep s s.sweepResult) s.sweepResult).det.kssb.toNat + 240 ≤ 12 * Config.nRbMax := by
  by_cases htrig : s.Triggers
  · obtain ⟨_, hnid2, _, _, _, hfits⟩ := Detector.trigger_spec htrig hready
    obtain ⟨hh, _, _⟩ : s.sweepResult.h ≤ 2 ∧ _ := sweep_bounds _ _ _
    obtain ⟨_, hnRb⟩ := hready.nRb
    rw [triggerStep_of_triggers htrig]
    exact ⟨hnid2.trans_le hh, hfits.trans (Nat.mul_le_mul_left 12 hnRb)⟩
  · rcases triggerStep_of_not_triggers htrig with e | e <;> rw [e] <;> exact ⟨h.nid2, h.window⟩

/-- A detector step leaves a legal detector. -/
theorem detStep_legal {s t : State} (hexec : exec .detStep s = .next t) (hok : commandError .detStep s = none)
    (h : s.det.Legal) : t.det.Legal := by
  have hready := detReady_of_ok hok
  obtain ⟨hnid2, hkssb⟩ := triggerStep_ranges hready h
  obtain ⟨hsame, hwindow⟩ := triggerStep_window hready
  rw [exec_detStep_ready hready, Host.Outcome.next.injEq] at hexec
  rw [← hexec, succeedCommand_det, collectAndEmit_det]
  exact Detector.legal_collect hnid2 hkssb ((congrArg List.length hsame).trans h.buf) hwindow

/-- A command that succeeds leaves a legal detector. -/
theorem det_legal_of_ok {i : Instr} {s t : State} (hexec : exec i s = .next t) (hok : commandError i s = none)
    (h : s.det.Legal) : t.det.Legal := by
  cases i with
  | detStep => exact detStep_legal hexec hok h
  | detReset issb =>
    rw [exec_detReset_ok hok, Host.Outcome.next.injEq] at hexec
    rw [← hexec]
    exact Detector.legal_searching _ h.buf
  | _ =>
    obtain ⟨_, _, _, hdet⟩ := exec_frame hexec
    rw [hdet nofun nofun]
    exact h

/-! ### The moves of a step -/

/-- A failed command keeps the invariant (R256). -/
theorem failCommand_inv {s : State} (h : s.Inv) (e : CmdError) : (failCommand s e).Inv :=
  State.inv_of_legal h.params (.fail _ _) h.mem_legal h.det_legal

/-- A well-formed command keeps the invariant. -/
theorem exec_inv {i : Instr} {s t : State} (hwf : WellFormed i = true) (h : s.Inv) (hexec : exec i s = .next t) :
    t.Inv := by
  rcases exec_cases hexec with ⟨e, _, rfl⟩ | hok
  · exact failCommand_inv h e
  have hframe := exec_ok_frame hexec hok
  have hparams : t.params = s.params := by rw [hframe]
  have hmem := (exec_writesWithin hwf hexec fun _ => h.bufLength).legal h.mem_legal fun _ => inOutputs_lt hok
  refine State.inv_of_legal (hparams ▸ h.params) ?_ (hparams ▸ hmem) (det_legal_of_ok hexec hok h.det_legal)
  rw [hframe]
  exact h.status_legal.of_idle rfl rfl rfl

/-- Settling a race keeps the invariant: the free words are clipped to DMEM. -/
theorem settleRace_inv {i : Instr} {s t : State} (h : t.Inv) : (settleRace i s t).Inv := by
  have hmem : (settleRace i s t).mem.Legal t.params.dmemSize := by
    rcases settleRace_cases i s t with e | ⟨_, _, e⟩
    · rw [e]; exact h.mem_legal
    · have hresults := havocResults_frame i t
      have hspans : (havocResults i t).mem.Legal (havocResults i t).params.dmemSize := by
        rw [hresults]; exact h.mem_legal
      rw [e, show t.params = (havocResults i t).params by rw [hresults]]
      exact hspans.havocSpans _
  have hframe := settleRace_frame i s t
  generalize settleRace i s t = u at hmem hframe
  rw [hframe]
  exact State.inv_of_legal h.params h.status_legal hmem h.det_legal

/-- The completion step keeps the invariant: only well-formed commands decode (R43, R97). -/
theorem completion_inv {s t : State} (h : s.Inv) (hstep : completion s = .next t) : t.Inv := by
  cases hdecode : decode s.snap.cmdw with
  | illegal r =>
    rw [completion, hdecode, Host.Outcome.next.injEq] at hstep
    exact hstep ▸ failCommand_inv h _
  | instr i =>
    obtain ⟨hwf, _⟩ := wellFormed_of_decode hdecode
    obtain ⟨f, hf⟩ := exec_complete i
    rw [completion_of_decode hdecode, hf s] at hstep
    split at hstep
    · cases hstep
    · rw [settleOutcome, Host.Outcome.next.injEq] at hstep
      exact hstep ▸ settleRace_inv (exec_inv hwf h (hf s))

/-- The engine's turn keeps the invariant (R20, R43). -/
theorem engineStep_inv {s t : State} (h : s.Inv) (hstep : engineStep s = .next t) : t.Inv := by
  unfold engineStep at hstep
  split at hstep
  · exact completion_inv h hstep
  · cases hstep; exact h

/-- The invariant speaks of the parameters, `STATUS`, DMEM and the detector alone. -/
theorem State.Inv.of_same {s t : State} (h : s.Inv) (hparams : t.params = s.params) (hstatus : t.status = s.status)
    (hmem : t.mem = s.mem) (hdet : t.det = s.det) : t.Inv :=
  State.inv_of_legal (hparams ▸ h.params) (hstatus ▸ h.status_legal) (hparams ▸ hmem ▸ h.mem_legal)
    (hdet ▸ h.det_legal)

/-- A soft reset keeps the invariant (R291). -/
theorem softReset_inv {s : State} (h : s.Inv) : (softReset s).Inv := by
  have hmem : (softReset s).mem.Legal s.params.dmemSize := by
    rw [softReset, havocPending_eq]
    exact h.mem_legal.havocSpans _
  have hdet : (softReset s).det = ⟨.searching, 0#2, 0#12, 0#6, unspecifiedBuf (havocPending s).freeCtr⟩ := rfl
  exact State.inv_of_legal h.params Status.legal_reset hmem
    (hdet ▸ Detector.legal_searching _ (unspecifiedBuf_length _))

/-- A `CMD` write keeps the invariant (R42, R259). -/
theorem acceptCommand_inv {s : State} (h : s.Inv) (w : Word) : (acceptCommand s w).Inv := by
  rcases acceptCommand_cases s w with ⟨_, e⟩ | ⟨_, herr, e⟩ <;> rw [e]
  · exact State.inv_of_legal h.params ⟨h.busyNotDone, h.busyNotErr, h.errCodeZero, h.errCodeLegal⟩ h.mem_legal
      h.det_legal
  · exact State.inv_of_legal h.params (h.status_legal.pend herr) h.mem_legal h.det_legal

/-- A register write keeps the invariant (R21 to R40). -/
theorem writeReg_inv {s : State} (h : s.Inv) (off : Nat) (w : Word) : (s.writeReg off w).Inv := by
  unfold State.writeReg
  split
  case h_1 =>
    unfold writeCtrl
    split
    · exact softReset_inv h
    · exact h.of_same rfl rfl rfl rfl
  case h_2 => exact State.inv_of_legal h.params (h.status_legal.w1c w) h.mem_legal h.det_legal
  case h_3 => exact acceptCommand_inv h w
  all_goals exact h.of_same rfl rfl rfl rfl

/-- Every move of the schedule keeps the invariant. -/
theorem applyMove_inv {s t : State} {m : Move} (h : s.Inv) (hmove : applyMove s m = .next t) : t.Inv := by
  cases m with
  | regWrite addr width v =>
    simp only [applyMove, hostRegWrite] at hmove
    split at hmove
    · cases hmove; exact h
    · cases hmove; exact writeReg_inv h _ _
    · cases hmove
  | regRead addr width =>
    simp only [applyMove, hostRegRead] at hmove
    split at hmove
    · cases hmove; exact h
    · cases hmove; exact h.of_same rfl rfl rfl rfl
    · cases hmove
  | dmemWrite addr bytes =>
    simp only [applyMove, hostDmemWrite] at hmove
    split at hmove
    · next hin =>
      cases hmove
      exact State.inv_of_legal h.params h.status_legal (h.mem_legal.writeBytes hin) h.det_legal
    · cases hmove
  | dmemRead addr n =>
    simp only [applyMove, hostDmemRead] at hmove
    split at hmove
    · cases hmove; exact h.of_same rfl rfl rfl rfl
    · cases hmove
  | engine => exact engineStep_inv h hmove

/-! ### The obligations of 10_state.md: the invariant -/

/-- Settles O60: a step is a move of the schedule or the engine's turn, and each keeps every part of the invariant. -/
theorem stepKeepsInvariant : Obligations.StepKeepsInvariant := by
  unfold Obligations.StepKeepsInvariant
  intro s t h hstep
  cases hscript : s.script with
  | nil =>
    rw [step, hscript] at hstep
    exact engineStep_inv h hstep
  | cons m rest =>
    rw [step_of_script_cons hscript] at hstep
    have hrest : State.Inv { s with script := rest } := h.of_same rfl rfl rfl rfl
    exact applyMove_inv hrest hstep

/-- Settles O59: after power-on nothing is written, no flag is set and the detector is searching. -/
theorem resetHasInvariant : Obligations.ResetHasInvariant := by
  unfold Obligations.ResetHasInvariant
  have hpowerOn (p : Params) (hp : p.wf) : (State.powerOn p).Inv := by
    have hdet : (State.powerOn p).det = ⟨.searching, 0#2, 0#12, 0#6, unspecifiedBuf 0⟩ := rfl
    exact State.inv_of_legal hp Status.legal_reset ⟨.nil, nofun⟩
      (hdet ▸ Detector.legal_searching _ (unspecifiedBuf_length _))
  exact ⟨hpowerOn, hpowerOn _ (by decide)⟩

end Sys2Proof.Machine
end

section
/-!
What the host reads and writes: the registers and their RAZ/WI bits, the acknowledgement of flags, power-on and soft
reset, and its own path to DMEM (10_state.md R21 to R40, R46, 20_memory.md R60, R70, 60_exceptions.md R258,
70_reset_and_hazards.md R290 to R292).
-/

namespace Sys2Proof.Machine

/-! ### Register views -/

@[simp] theorem State.writeReg_status (s : State) (w : Word) : s.writeReg 0x008 w = acknowledge s w := rfl

@[simp] theorem State.writeReg_ctrl (s : State) (w : Word) : s.writeReg 0x004 w = writeCtrl s w := rfl

/-- A write to STATUS clears the bits it names, ERR_CODE with ERR (R23, R258). -/
theorem Status.w1c_word_getLsbD (t : Status) (w : Word) {b : Nat} (hb : b < 32) :
    (t.w1c w).word.getLsbD b =
      (t.word.getLsbD b && !((decide (1 ≤ b) && decide (b ≤ 6) && w.getLsbD b) ||
        (decide (8 ≤ b) && decide (b ≤ 11) && w.getLsbD 2))) := by
  rw [Status.word_getLsbD _ b hb, Status.word_getLsbD _ b hb, Status.w1c_errCode]
  by_cases hcode : 8 ≤ b ∧ b ≤ 11
  · obtain ⟨hlo, hhi⟩ := hcode
    interval_cases b <;> cases w.getLsbD 2 <;> simp
  · interval_cases b <;> simp at hcode ⊢

/-- CINIT reads back its 31 bits (R27). -/
theorem cinit_readBack (v : Word) : (0#1 ++ v.extractLsb' 0 31 : Word) = v &&& 0x7FFFFFFF#32 := by
  refine BitVec.eq_of_getLsbD_eq fun b hb => ?_
  rw [BitVec.getLsbD_and]
  rw [BitVec.getLsbD_append, BitVec.getLsbD_extractLsb']
  interval_cases b <;> simp

/-- CFG reads back the bits of its three fields (R28). -/
theorem Cfg.word_ofWord (v : Word) : (Cfg.ofWord v).word = v &&& 0x7F0701FF#32 := by
  refine BitVec.eq_of_getLsbD_eq fun b hb => ?_
  rw [Cfg.word_getLsbD _ b hb, BitVec.getLsbD_and, Cfg.ofWord]
  interval_cases b <;> simp

/-- CTRL reads back its four interrupt enables (R22). -/
theorem Ctrl.word_ofWord (v : Word) : (Ctrl.ofWord v).word = v &&& 0x0000000F#32 := by
  refine BitVec.eq_of_getLsbD_eq fun b hb => ?_
  rw [Ctrl.word_getLsbD _ b hb, BitVec.getLsbD_and, Ctrl.ofWord]
  interval_cases b <;> simp

/-- ID, the read-only registers and the reserved offsets take no write (R38, R40). -/
theorem writeReg_readOnly {off : Nat} (h : off = 0x000 ∨ 0x034 ≤ off) (s : State) (v : Word) :
    s.writeReg off v = s := by
  unfold State.writeReg
  split
  case h_13 => rfl
  all_goals omega

/-- The register values after power-on (R21). -/
theorem powerOn_readReg (p : Params) (off : Nat) :
    (State.powerOn p).readReg off =
      if off = 0x000 then 0x53534201#32 else if off = 0x02C ∨ off = 0x030 then 0xFFFFFFFF#32
      else if off = 0x034 then 0x00000007#32 else 0#32 := by
  unfold State.readReg
  split
  case h_24 => simp_all
  all_goals
    simp [State.powerOn, Config.idValue, Ctrl.word, Status.word, Cfg.word, Detector.word, Srem.code, DetRes.word,
      CorrPos.word]

/-! ### The soft reset (R291, R292) -/

/-- No register shows DMEM, `BUF` or what the model keeps of the host. -/
theorem readReg_of_hidden (s : State) (buf : List Sample) (mem : Memory) (script : List Move) (regRd : Word)
    (dmemRd : List Byte) (freeCtr off : Nat) :
    State.readReg { s with
      det := { s.det with buf := buf }, mem := mem, script := script, regRd := regRd, dmemRd := dmemRd
      freeCtr := freeCtr } off = s.readReg off := rfl

/-- A soft reset leaves the registers of power-on. -/
theorem softReset_readReg (s : State) (off : Nat) : (softReset s).readReg off = (State.powerOn s.params).readReg off :=
  readReg_of_hidden (State.powerOn s.params) (unspecifiedBuf (havocPending s).freeCtr) (havocPending s).mem s.script
    s.regRd s.dmemRd ((havocPending s).freeCtr + 960) off

/-- The DMEM that a soft reset leaves is that of the aborted command. -/
theorem softReset_mem (s : State) : (softReset s).mem = (havocPending s).mem := rfl

/-- An idle block has no pending regions. -/
theorem pendingRegions_idle {s : State} (h : s.status.busy = false) : s.pendingRegions = [] := by
  rw [State.pendingRegions, h, if_neg Bool.false_ne_true]

/-- With no command pending there is nothing to abort. -/
theorem havocPending_idle {s : State} (h : s.status.busy = false) : havocPending s = s := by
  rw [havocPending, pendingRegions_idle h]
  rfl

/-- Aborting a command leaves the bytes outside its W regions (R291). -/
theorem havocPending_byteAt {s : State} {x : Nat}
    (hx : ∀ r ∈ s.pendingRegions, r.op.isDst = true → x < r.start ∨ r.start + 4 * r.words ≤ x) :
    (havocPending s).byteAt x = s.byteAt x := by
  rw [havocPending_eq]
  refine havocSpans_byteAt _ _ _ fun p hp => ?_
  obtain ⟨r, hr, rfl⟩ := List.mem_map.1 hp
  obtain ⟨hmem, hdst⟩ := List.mem_filter.1 hr
  exact hx r hmem hdst

/-! ### Unsupported accesses (R39) -/

/-- An access that touches the window and is not an aligned 32-bit one is unsupported. -/
theorem windowAccess_unsupported {base addr width : Nat} (hbase : base % 0x100 = 0) (hlo : base < addr + width)
    (hhi : addr < base + 0x100) (hwidth : 0 < width) (hbad : width ≠ 4 ∨ addr % 4 ≠ 0) :
    windowAccess base addr width = .unsupported := by
  rw [windowAccess, if_neg (by omega), if_neg (by omega)]

/-! ### The host's path to DMEM (R60, R70) -/

/-- Reading a byte after a write of consecutive bytes: the written one inside, the old one outside. -/
theorem State.byteAt_writeBytes (s : State) (a : Nat) (bs : List Byte) :
    (∀ j (h : j < bs.length), (s.writeBytes a bs).byteAt (a + j) = bs[j]) ∧
      ∀ x, x < a ∨ a + bs.length ≤ x → (s.writeBytes a bs).byteAt x = s.byteAt x := by
  simp only [State.byteAt, State.writeBytes_mem, Memory.byte?_writeBytes]
  refine ⟨fun j h => ?_, fun x hx => ?_⟩
  · rw [if_pos (by omega), Nat.add_sub_cancel_left, List.getElem?_eq_getElem h, Option.getD_some]
  · rw [if_neg (by omega)]

/-- With no command pending, the host reads the bytes of DMEM (R70). -/
theorem hostByte_idle {s : State} (h : s.status.busy = false) (addr j : Nat) :
    hostByte s addr j = s.byteAt (addr + j) := by
  rw [hostByte, pendingRegions_idle h]
  rfl

/-! ### The obligations of 10_state.md and 70_reset_and_hazards.md: the host's side -/

/-- Settles O37: the write is the step, and the register word shows each flag at its bit. -/
theorem statusWriteOneClears : Obligations.StatusWriteOneClears := by
  unfold Obligations.StatusWriteOneClears
  intro s rest w hbase hscript
  have hstep : step s = .next (acknowledge { s with script := rest } w) := by
    rw [step_regWrite hbase hscript (by decide) (by decide), State.writeReg_status]
  exact ⟨_, hstep, rfl, fun b hb => Status.w1c_word_getLsbD s.status w hb⟩

/-- Settles O38: a register without RAZ/WI bits stores the word, the others the bits of their fields. -/
theorem writtenRegisterReadsBack : Obligations.WrittenRegisterReadsBack := by
  unfold Obligations.WrittenRegisterReadsBack
  intro s v
  refine ⟨fun off hoff => ?_, cinit_readBack v, Cfg.word_ofWord v, fun hsrst => ?_⟩
  · simp only [List.mem_cons, List.not_mem_nil, or_false] at hoff
    rcases hoff with rfl | rfl | rfl | rfl | rfl | rfl | rfl <;> rfl
  · rw [State.writeReg_ctrl, writeCtrl, hsrst, if_neg Bool.false_ne_true]
    exact Ctrl.word_ofWord v

/-- Settles O39: no other offset is written. -/
theorem readOnlyWritesIgnored : Obligations.ReadOnlyWritesIgnored := by
  unfold Obligations.ReadOnlyWritesIgnored
  intro s v off hoff
  exact writeReg_readOnly hoff s v

/-- Settles O40: the register table at its reset values, and the fields of the state. -/
theorem resetRegisterValues : Obligations.ResetRegisterValues := by
  unfold Obligations.ResetRegisterValues
  intro p
  exact ⟨powerOn_readReg p, rfl, rfl, rfl, rfl, rfl, rfl, rfl⟩

/-- Settles O41: the registers are those of power-on, and only the aborted command's W regions became free. -/
theorem softResetRestoresRegisters : Obligations.SoftResetRestoresRegisters := by
  unfold Obligations.SoftResetRestoresRegisters
  intro s rest w hbase hscript hsrst
  have hstep : step s = .next (softReset { s with script := rest }) := by
    rw [step_regWrite hbase hscript (by decide) (by decide), State.writeReg_ctrl, writeCtrl, if_pos hsrst]
  refine ⟨_, hstep, softReset_readReg _, rfl, rfl, rfl, rfl, rfl, rfl, fun hidle => ?_, fun x hx => ?_⟩
  · rw [softReset_mem, havocPending_idle (s := { s with script := rest }) hidle]
  · exact (State.byteAt_congr (softReset_mem _) x).trans (havocPending_byteAt (s := { s with script := rest }) hx)

/-- Settles O43: neither access decodes to a register. -/
theorem unsupportedRegisterAccessRefused : Obligations.UnsupportedRegisterAccessRefused := by
  unfold Obligations.UnsupportedRegisterAccessRefused
  intro s rest addr width v hbase hlo hhi hwidth hbad hscript
  have haccess := windowAccess_unsupported hbase hlo hhi hwidth hbad
  rcases hscript with hscript | hscript <;> rw [step_of_script_cons hscript]
  · simp only [applyMove, hostRegWrite, haccess]
  · simp only [applyMove, hostRegRead, haccess]

/-- Settles O44: inside DMEM the write stores its bytes and the read returns them. -/
theorem hostReadsAndWritesBytes : Obligations.HostReadsAndWritesBytes := by
  unfold Obligations.HostReadsAndWritesBytes
  intro s rest addr n bytes
  refine ⟨fun hscript hin => ?_, fun hscript hin hidle => ?_⟩
  · obtain ⟨hinside, houtside⟩ := State.byteAt_writeBytes s addr bytes
    rw [step_of_script_cons hscript, applyMove, hostDmemWrite, if_pos hin]
    exact ⟨_, rfl, rfl, hinside, houtside⟩
  · rw [step_of_script_cons hscript, applyMove, hostDmemRead, if_pos hin]
    refine ⟨_, rfl, rfl, by simp, fun j hj => ?_⟩
    rw [List.getElem_map, List.getElem_range]
    exact hostByte_idle hidle addr j

end Sys2Proof.Machine
end

section
/-!
The order of the checks: an illegal field decides the error whatever the operands are, and the first overlapping pair of
operands when every other check passes (30_encoding.md R95, R100, 42_mapper.md R191, 43_correlator.md R220,
60_exceptions.md R252, R254, R255).
-/

namespace Sys2Proof.Machine

/-! ### Field checks come first -/

/-- Every command answers a next state (R43). -/
theorem exists_exec (i : Instr) (s : State) : ∃ t, exec i s = .next t :=
  have ⟨_, hf⟩ := exec_complete i
  ⟨_, hf s⟩

/-- The first field check that fails decides the error, whatever the operands are (R255). -/
theorem failsWith_of_field {i : Instr} {s t : State} {e : CmdError} (hexec : exec i s = .next t)
    (hfield : firstError (fieldChecks i s.snap s.det) = some e) : FailsWith s t e.code e.info := by
  have herror : commandError i s = some e := by rw [commandError_eq, hfield, Option.some_or]
  rw [exec_of_error herror, Host.Outcome.next.injEq] at hexec
  exact hexec ▸ failCommand_failsWith s e

/-- A command with a failing field check fails with its error. -/
theorem exec_failsWith_of_field {i : Instr} {s : State} {e : CmdError}
    (hfield : firstError (fieldChecks i s.snap s.det) = some e) :
    ∃ t, exec i s = .next t ∧ FailsWith s t e.code e.info :=
  have ⟨t, hexec⟩ := exists_exec i s
  ⟨t, hexec, failsWith_of_field hexec hfield⟩

/-- An L_MAX outside [1, 64] is not legal (R28). -/
theorem lMax_illegal {S : Snapshot} (h : S.cfg.lMax.toNat = 0 ∨ 64 < S.cfg.lMax.toNat) :
    ¬ (1 ≤ S.cfg.lMax.toNat ∧ S.cfg.lMax.toNat ≤ 64) := by omega

/-- An N_RB outside [1, 275] is not legal (R28). -/
theorem nRb_illegal {S : Snapshot} (h : S.cfg.nRb.toNat = 0 ∨ 275 < S.cfg.nRb.toNat) :
    ¬ (1 ≤ S.cfg.nRb.toNat ∧ S.cfg.nRb.toNat ≤ 275) := by omega

/-- The resource grid's symbols: 140 slots' worth a subframe step (R28). -/
theorem Snapshot.nSymb_eq (S : Snapshot) : S.nSymb = 140 * 2 ^ S.cfg.mu.toNat := by
  rw [Snapshot.nSymb]
  omega

/-! ### Overlapping operands -/

theorem overlaps_iff (a b : Region) : a.overlaps b = true ↔ Overlapping a b := by
  simp only [Region.overlaps, Overlapping, Bool.and_eq_true, decide_eq_true_eq, and_assoc]

theorem Overlapping.symm {a b : Region} (h : Overlapping a b) : Overlapping b a :=
  have ⟨ha, hb, hab, hba⟩ := h
  ⟨hb, ha, hba, hab⟩

/-- A command names an operand at most once (R67). -/
theorem namedRegions_op_nodup (i : Instr) (S : Snapshot) : ((namedRegions i S).map Region.op).Nodup := by
  cases i <;> simp [namedRegions, plainRegion]

/-- Two regions of a command with the same operand are the same. -/
theorem namedRegions_op_inj {i : Instr} {S : Snapshot} {a b : Region} (ha : a ∈ namedRegions i S)
    (hb : b ∈ namedRegions i S) (hop : a.op = b.op) : a = b :=
  List.inj_on_of_nodup_map (namedRegions_op_nodup i S) ha hb hop

/-- The region an operand names is in the list, and names that operand. -/
theorem regionOf_spec {rs : List Region} {op : Operand} {r : Region} (h : regionOf rs op = some r) :
    r ∈ rs ∧ r.op = op := by
  rw [regionOf] at h
  exact ⟨List.mem_of_find?_eq_some h, by simpa using List.find?_some h⟩

/-- An operand that a command names is found in its list. -/
theorem regionOf_namedRegions {i : Instr} {S : Snapshot} {r : Region} (hr : r ∈ namedRegions i S) :
    regionOf (namedRegions i S) r.op = some r := by
  cases hfind : regionOf (namedRegions i S) r.op with
  | none => exact absurd (decide_eq_true rfl) (List.find?_eq_none.1 hfind r hr)
  | some q =>
    obtain ⟨hq, hop⟩ := regionOf_spec hfind
    rw [namedRegions_op_inj hq hr hop]

/-- The overlap check of two operands that a command names passes exactly if their regions do not overlap (R68). -/
theorem overlapCheck_eq_none_iff {i : Instr} {S : Snapshot} {a b : Region} (ha : a ∈ namedRegions i S)
    (hb : b ∈ namedRegions i S) : overlapCheck (namedRegions i S) (a.op, b.op) = none ↔ ¬ Overlapping a b := by
  rw [overlapCheck, regionOf_namedRegions ha, regionOf_namedRegions hb, check_eq_none, ← overlaps_iff]
  simp

/-- The overlap check of a pair fails with OVERLAP and the pair's operands, and their regions overlap (R252). -/
theorem overlapping_of_overlapCheck {rs : List Region} {p : Operand × Operand} {e : CmdError}
    (h : overlapCheck rs p = some e) :
    ∃ x ∈ rs, ∃ y ∈ rs, (x.op, y.op) = p ∧ Overlapping x y ∧ e = ⟨.overlap, x.op.index + 16 * y.op.index⟩ := by
  unfold overlapCheck at h
  split at h
  · next x y hx hy =>
    obtain ⟨hxmem, hxop⟩ := regionOf_spec hx
    obtain ⟨hymem, hyop⟩ := regionOf_spec hy
    obtain ⟨hoverlap, rfl⟩ := (check_eq_some ..).1 h
    refine ⟨x, hxmem, y, hymem, by rw [hxop, hyop], (overlaps_iff x y).1 (by simpa using hoverlap), by rw [hxop, hyop]⟩
  · cases h

/-- Of two different operands of which the second is written, one order is a pair that R252 checks. -/
theorem mem_overlapPairs {x y : Operand} (hne : x ≠ y) (hdst : y.isDst = true) :
    (x, y) ∈ overlapPairs ∨ (y, x) ∈ overlapPairs := by
  cases y with
  | src0 => cases hdst
  | src1 => cases hdst
  | dst0 => cases x <;> simp [overlapPairs] at hne ⊢
  | dst1 => cases x <;> simp [overlapPairs] at hne ⊢

/-- Two overlapping regions of a command, of which the second is written, fail one of the overlap checks (R68). -/
theorem overlapChecks_fail {i : Instr} {S : Snapshot} {a b : Region} (ha : a ∈ namedRegions i S)
    (hb : b ∈ namedRegions i S) (hne : a ≠ b) (hdst : b.op.isDst = true) (hoverlap : Overlapping a b) :
    ∃ e, firstError (overlapPairs.map (overlapCheck (namedRegions i S))) = some e := by
  refine Option.ne_none_iff_exists'.1 fun hnone => ?_
  have hpass := List.forall_mem_map.1 ((firstError_eq_none _).1 hnone)
  rcases mem_overlapPairs (fun hop => hne (namedRegions_op_inj ha hb hop)) hdst with hpair | hpair
  · exact (overlapCheck_eq_none_iff ha hb).1 (hpass _ hpair) hoverlap
  · exact (overlapCheck_eq_none_iff hb ha).1 (hpass _ hpair) hoverlap.symm

/-- With every region aligned and in range, the operand checks are the overlap checks (R255). -/
theorem regionChecks_of_aligned_inRange {rs : List Region} {size : Nat}
    (h : ∀ q ∈ rs, q.base % 4 = 0 ∧ q.start + 4 * q.words ≤ size) :
    regionChecks rs size = firstError (overlapPairs.map (overlapCheck rs)) := by
  have haligned : firstError (rs.map fun r => check r.aligned .misaligned r.op.index) = none :=
    (firstError_eq_none _).2 (List.forall_mem_map.2 fun q hq => alignedCheck_pass (h q hq).1)
  have hinRange : firstError (rs.map fun r => check (r.inRange size) .memRange r.op.index) = none :=
    (firstError_eq_none _).2 (List.forall_mem_map.2 fun q hq => inRangeCheck_pass (h q hq).2)
  rw [regionChecks, haligned, hinRange, firstError_none_cons, firstError_none_cons, firstError_cons, firstError_nil,
    Option.or_none]

/-! ### The obligations of 60_exceptions.md: the order of the checks (R255) -/

/-- Settles O29: the first pair whose check fails is the first that overlaps, since a command names an operand once. -/
theorem overlappingRegionsFail : Obligations.OverlappingRegionsFail := by
  unfold Obligations.OverlappingRegionsFail
  intro i s a b hfields hregions ha hb hne hdst hoverlap
  obtain ⟨e, he⟩ := overlapChecks_fail ha hb hne hdst hoverlap
  obtain ⟨pre, p, post, hsplit, hp, hpre⟩ := firstError_map_split he
  obtain ⟨x, hx, y, hy, rfl, hxy, rfl⟩ := overlapping_of_overlapCheck hp
  obtain ⟨t, hexec, hfails⟩ :=
    exec_failsWith_of_regionChecks hfields ((regionChecks_of_aligned_inRange hregions).trans he)
  exact ⟨t, x, y, pre, post, hexec, hsplit, hx, hy, hxy,
    fun u hu v hv huv => (overlapCheck_eq_none_iff hu hv).1 (hpre _ huv), hfails⟩

/-- Settles O24: per clause, the field checks before the bad value pass and its own fails. -/
theorem invalidFieldFailsInOrder : Obligations.InvalidFieldFailsInOrder := by
  unfold Obligations.InvalidFieldFailsInOrder
  refine ⟨?pss, ?sssNid1, ?sssNid2, ?dmrsCell, ?dmrsLMax, ?ssbNid1, ?ssbNid2, ?ssbLMax, ?decode, ?qpsk⟩
  case pss =>
    intro nid2 s hnid2
    refine exec_failsWith_of_field (e := ⟨.invalidParam, 2⟩) ?_
    rw [fieldChecks, check_fail (by omega), firstError_some_cons]
  case sssNid1 =>
    intro nid1 nid2 s hnid1
    refine exec_failsWith_of_field (e := ⟨.invalidParam, 1⟩) ?_
    rw [fieldChecks, check_fail (by omega), firstError_some_cons]
  case sssNid2 =>
    intro nid1 nid2 s hnid1 hnid2
    refine exec_failsWith_of_field (e := ⟨.invalidParam, 2⟩) ?_
    rw [fieldChecks, check_pass hnid1, check_fail (by omega), firstError_none_cons, firstError_some_cons]
  case dmrsCell =>
    intro ncell issb nhf s hncell
    refine exec_failsWith_of_field (e := ⟨.invalidParam, 3⟩) ?_
    rw [fieldChecks, check_fail (by omega), firstError_some_cons]
  case dmrsLMax =>
    intro ncell issb nhf s hncell hlMax
    refine exec_failsWith_of_field (e := ⟨.invalidParam, 6⟩) ?_
    rw [fieldChecks, check_pass hncell, Snapshot.lMaxLegal_eq, check_fail (lMax_illegal hlMax), firstError_none_cons,
      firstError_some_cons]
  case ssbNid1 =>
    intro nid1 nid2 issb nhf s hnid1
    refine exec_failsWith_of_field (e := ⟨.invalidParam, 1⟩) ?_
    rw [fieldChecks, check_fail (by omega), firstError_some_cons]
  case ssbNid2 =>
    intro nid1 nid2 issb nhf s hnid1 hnid2
    refine exec_failsWith_of_field (e := ⟨.invalidParam, 2⟩) ?_
    rw [fieldChecks, check_pass hnid1, check_fail (by omega), firstError_none_cons, firstError_some_cons]
  case ssbLMax =>
    intro nid1 nid2 issb nhf s hnid1 hnid2 hlMax
    refine exec_failsWith_of_field (e := ⟨.invalidParam, 6⟩) ?_
    rw [fieldChecks, check_pass hnid1, check_pass hnid2, Snapshot.lMaxLegal_eq, check_fail (lMax_illegal hlMax),
      firstError_none_cons, firstError_none_cons, firstError_some_cons]
  case decode =>
    intro nid2 s hnid2
    refine exec_failsWith_of_field (e := ⟨.invalidParam, 2⟩) ?_
    rw [fieldChecks, check_fail (by omega), firstError_some_cons]
  case qpsk =>
    intro s hodd
    refine exec_failsWith_of_field (e := ⟨.invalidLength, 0⟩) ?_
    rw [fieldChecks, check_fail (by omega), firstError_some_cons]

/-- Settles O25: the four field checks in their order. -/
theorem mapSsbChecksGridBounds : Obligations.MapSsbChecksGridBounds := by
  unfold Obligations.MapSsbChecksGridBounds
  intro koff loff s
  obtain ⟨t, hexec⟩ := exists_exec (.mapSsb koff loff) s
  have hchecks : fieldChecks (.mapSsb koff loff) s.snap s.det =
      [check (decide (1 ≤ s.snap.cfg.nRb.toNat ∧ s.snap.cfg.nRb.toNat ≤ 275)) .invalidParam 4,
        check (decide (s.snap.cfg.mu.toNat ≤ 4)) .invalidParam 5,
        check (decide (koff + 240 ≤ 12 * s.snap.cfg.nRb.toNat)) .outOfBounds 1,
        check (decide (loff + 4 ≤ 140 * 2 ^ s.snap.cfg.mu.toNat)) .outOfBounds 2] := by
    rw [fieldChecks, Snapshot.nRbLegal_eq, Snapshot.muLegal_eq, Snapshot.nSymb_eq, Snapshot.nSc]
  refine ⟨t, hexec, fun hnRb => ?_, fun hlo hhi hmu => ?_, fun hlo hhi hmu hk => ?_, fun hlo hhi hmu hk hl => ?_⟩
  · refine failsWith_of_field (e := ⟨.invalidParam, 4⟩) hexec ?_
    rw [hchecks, check_fail (nRb_illegal hnRb), firstError_some_cons]
  · refine failsWith_of_field (e := ⟨.invalidParam, 5⟩) hexec ?_
    rw [hchecks, check_pass ⟨hlo, hhi⟩, check_fail hmu.not_ge, firstError_none_cons, firstError_some_cons]
  · refine failsWith_of_field (e := ⟨.outOfBounds, 1⟩) hexec ?_
    rw [hchecks, check_pass ⟨hlo, hhi⟩, check_pass hmu, check_fail hk.not_ge, firstError_none_cons,
      firstError_none_cons, firstError_some_cons]
  · refine failsWith_of_field (e := ⟨.outOfBounds, 2⟩) hexec ?_
    rw [hchecks, check_pass ⟨hlo, hhi⟩, check_pass hmu, check_pass hk, check_fail hl.not_ge, firstError_none_cons,
      firstError_none_cons, firstError_none_cons, firstError_some_cons]

/-- Settles O26: the three field checks in their order. -/
theorem detStepChecksConfiguration : Obligations.DetStepChecksConfiguration := by
  unfold Obligations.DetStepChecksConfiguration
  intro s
  obtain ⟨t, hexec⟩ := exists_exec .detStep s
  have hchecks : fieldChecks .detStep s.snap s.det =
      [check (decide (1 ≤ s.snap.cfg.nRb.toNat ∧ s.snap.cfg.nRb.toNat ≤ 275)) .invalidParam 4,
        check (decide (1 ≤ s.snap.cfg.lMax.toNat ∧ s.snap.cfg.lMax.toNat ≤ 64)) .invalidParam 6,
        check (s.det.windowFits (12 * s.snap.cfg.nRb.toNat)) .outOfBounds 3] := by
    rw [fieldChecks, Snapshot.nRbLegal_eq, Snapshot.lMaxLegal_eq, Snapshot.nSc]
  refine ⟨t, hexec, fun hnRb => ?_, fun hlo hhi hlMax => ?_, fun hlo hhi hllo hlhi hsrem hwindow => ?_⟩
  · refine failsWith_of_field (e := ⟨.invalidParam, 4⟩) hexec ?_
    rw [hchecks, check_fail (nRb_illegal hnRb), firstError_some_cons]
  · refine failsWith_of_field (e := ⟨.invalidParam, 6⟩) hexec ?_
    rw [hchecks, check_pass ⟨hlo, hhi⟩, check_fail (lMax_illegal hlMax), firstError_none_cons, firstError_some_cons]
  · have hfits : s.det.windowFits (12 * s.snap.cfg.nRb.toNat) = false :=
      Bool.eq_false_iff.2 fun hfits => hwindow.not_ge ((Detector.windowFits_iff _ _).1 hfits hsrem)
    refine failsWith_of_field (e := ⟨.outOfBounds, 3⟩) hexec ?_
    rw [hchecks, check_pass ⟨hlo, hhi⟩, check_pass ⟨hllo, hlhi⟩, hfits, check_false, firstError_none_cons,
      firstError_none_cons, firstError_some_cons]

/-- Settles O34: the words by decoding each, which fixes its encoding, and the failing command by its field check. -/
theorem workedEncodingsDecode : Obligations.WorkedEncodingsDecode := by
  unfold Obligations.WorkedEncodingsDecode
  refine ⟨fun p hp => ?_, by decide, by decide, by decide, fun s => ?_⟩
  · have hdecode : decode p.1 = .instr p.2 := by
      revert p
      decide
    exact ⟨hdecode, (decode_eq_instr_iff _ _).1 hdecode⟩
  · exact exec_failsWith_of_field (e := ⟨.invalidParam, 2⟩) rfl

end Sys2Proof.Machine
end

section
/-!
What the sequence generator and the QPSK modulator write: a vector of samples or bits at `DST0`, entry by entry, and
nothing else (40_seqgen.md R122 to R137, 41_modulator.md R151 to R156).
-/

namespace Sys2Proof.Machine

/-! ### A command that writes one vector -/

/-- The completion of an effect that changes DMEM alone changes DMEM, BUSY and DONE (R43). -/
theorem succeedsWriting_of_mem {s u : State} (h : u = { s with mem := u.mem }) :
    SucceedsWriting s (succeedCommand u) := by
  rw [SucceedsWriting, h]
  rfl

/-- A command that writes samples at `a` leaves every other byte, and each word is its sample's (R64). -/
theorem exec_writesSamples {i : Instr} {s : State} {a n : Nat} {xs : List Sample} (hlength : xs.length = n)
    (hexec : exec i s = .next (succeedCommand (s.writeSamples a xs))) :
    ∃ t, exec i s = .next t ∧ SucceedsWriting s t ∧ KeepsOutside s t a n ∧
      ∀ j, j < n → t.memRead (a + 4 * j) = (xs.getD j Sample.zero).word := by
  refine ⟨_, hexec, succeedsWriting_of_mem rfl, fun x hx => ?_, fun j hj => ?_⟩
  · rw [State.byteAt_congr (succeedCommand_mem _), State.byteAt_writeSamples_outside s a xs x (hlength ▸ hx)]
  · rw [State.memRead_congr (succeedCommand_mem _), List.getD_eq_getElem _ _ (hlength ▸ hj),
      State.memRead_writeSamples s a xs j (hlength ▸ hj)]

/-- A command that writes a bit vector at `a` leaves every other byte, and the tail of the last word is 0 (R65). -/
theorem exec_writesBits {i : Instr} {s : State} {a n : Nat} {bs : List Bool} (hlength : bs.length = n)
    (hexec : exec i s = .next (succeedCommand (s.writeBits a bs))) :
    ∃ t, exec i s = .next t ∧ SucceedsWriting s t ∧ KeepsOutside s t a ((n + 31) / 32) ∧
      ∀ j, j < 32 * ((n + 31) / 32) → t.vectorBit a j = bs.getD j false := by
  subst hlength
  refine ⟨_, hexec, succeedsWriting_of_mem rfl, fun x hx => ?_, fun j hj => ?_⟩
  · rw [State.byteAt_congr (succeedCommand_mem _), State.byteAt_writeBits_outside s a bs x hx]
  · rw [State.vectorBit, State.memRead_congr (succeedCommand_mem _)]
    exact State.memRead_writeBits s a bs j hj

/-! ### Entries of the written vectors -/

/-- The word of a bipolar entry of a list. -/
theorem map_bipolar_getD_word (ds : List Int) {n : Nat} (h : n < ds.length) :
    ((ds.map bipolar).getD n Sample.zero).word = (bipolar ds[n]).word := by
  rw [List.getD_eq_getElem _ _ (by rwa [List.length_map]), List.getElem_map]

/-- The word of a product of two signs (R132): +1 exactly if the bits agree. -/
theorem bipolar_sign_mul_word (b0 b1 : Bool) :
    (bipolar (sign b0 * sign b1)).word = if b0 = b1 then 0x00004000#32 else 0x0000C000#32 := by
  cases b0 <;> cases b1 <;> decide

/-- An entry of the SSS in terms of any sequences that follow the recurrences (R130 to R132). -/
theorem sss_word {p : Params} {x0 x1 : Nat → Bool} (h0 : IsMseq4 p.sssSeed x0) (h1 : IsMseq1 p.sssSeed x1)
    (nid1 nid2 : Nat) {n : Nat} (hn : n < (sss p nid1 nid2).length) :
    (bipolar (sss p nid1 nid2)[n]).word =
      if x0 ((n + (15 * (nid1 / 112) + 5 * nid2)) % 127) = x1 ((n + nid1 % 112) % 127) then 0x00004000#32
      else 0x0000C000#32 := by
  have hbit0 := mseq4_get h0 ((n + sssM0 nid1 nid2) % 127) (Nat.mod_lt _ (by decide))
  have hbit1 := mseq1_get h1 ((n + sssM1 nid1) % 127) (Nat.mod_lt _ (by decide))
  rw [sss_getElem, bipolar_sign_mul_word, sssBits0, sssBits1, ← hbit0, ← hbit1, sssM0, sssM1]

/-- The word of a QPSK symbol of a bit sequence, by its two bits (R151). -/
theorem qpskPairs_getD_word (bs : List Bool) {i : Nat} (h : i < bs.length / 2) :
    ((qpskPairs bs).getD i Sample.zero).word = qpskWord (bs.getD (2 * i) false) (bs.getD (2 * i + 1) false) := by
  rw [List.getD_eq_getElem _ _ (by rwa [qpskPairs_length]), qpskPairs_getElem, qpsk_word_eq]

/-- The bits of the demodulated input, 0 beyond its end (R154, R156). -/
theorem demod_readSamples_getD (s : State) (a n i : Nat) :
    ((s.readSamples a n).flatMap demod).getD i false =
      if i < 2 * n then (s.memRead (a + 4 * (i / 2))).getLsbD (if i % 2 = 0 then 15 else 31) else false := by
  split
  · next hi =>
    have hsample : i / 2 < (s.readSamples a n).length := by rw [State.readSamples_length]; omega
    rw [flatMap_pairs_getD demod (fun _ => rfl) _ i hsample, State.readSamples_getElem,
      demod_ofWord _ _ (Nat.mod_lt _ (by decide))]
  · next hi =>
    rw [List.getD_eq_default]
    rw [flatMap_pairs_length demod (fun _ => rfl), State.readSamples_length]
    omega

/-! ### The obligations of 40_seqgen.md: PRSG, PSS_GEN, SSS_GEN and DMRS_GEN -/

/-- Settles O2: the written bits are PRSG's, which any sequences with the recurrences give. -/
theorem prsgWritesGoldSequence : Obligations.PrsgWritesGoldSequence := by
  unfold Obligations.PrsgWritesGoldSequence
  intro s hdst
  have hok : commandError .prsg s = none := commandError_one rfl rfl hdst.1 hdst.2
  obtain ⟨t, hexec, hframe, hkeeps, hbits⟩ := exec_writesBits (prsg_length ..) (exec_prsg_ok hok)
  refine ⟨t, hexec, hframe, hkeeps, fun x1 x2 h1 h2 i hi => ?_⟩
  rw [hbits i hi, ← prsg_getD _ _ x1 x2 h1 h2, BitVec.ofNat_toNat, BitVec.setWidth_eq]

/-- Settles O3: the written samples are the PSS's, which any sequence with the recurrence gives. -/
theorem pssGenWritesPss : Obligations.PssGenWritesPss := by
  unfold Obligations.PssGenWritesPss
  intro nid2 s hnid2 hdst
  have hok : commandError (.pssGen nid2) s = none :=
    commandError_one (by rw [fieldChecks, check_pass hnid2]; rfl) rfl hdst.1 hdst.2
  obtain ⟨t, hexec, hframe, hkeeps, hwords⟩ :=
    exec_writesSamples (by rw [List.length_map, pss_length]) (exec_pssGen_ok hok)
  refine ⟨t, hexec, hframe, hkeeps, fun x hx n hn => ?_⟩
  have hentry : n < (pss s.params nid2).length := by rwa [pss_length]
  rw [hwords n hn, map_bipolar_getD_word _ hentry, pss_getElem _ _ x hx n hentry, bipolar_sign_word]

/-- Settles O4: the written samples are the SSS's, which any sequences with the recurrences give. -/
theorem sssGenWritesSss : Obligations.SssGenWritesSss := by
  unfold Obligations.SssGenWritesSss
  intro nid1 nid2 s hnid1 hnid2 hdst
  have hok : commandError (.sssGen nid1 nid2) s = none :=
    commandError_one (by rw [fieldChecks, check_pass hnid1, check_pass hnid2]; rfl) rfl hdst.1 hdst.2
  obtain ⟨t, hexec, hframe, hkeeps, hwords⟩ :=
    exec_writesSamples (by rw [List.length_map, sss_length]) (exec_sssGen_ok hok)
  refine ⟨t, hexec, hframe, hkeeps, fun x0 x1 h0 h1 n hn => ?_⟩
  have hentry : n < (sss s.params nid1 nid2).length := by rwa [sss_length]
  rw [hwords n hn, map_bipolar_getD_word _ hentry, sss_word h0 h1]

/-- Settles O5: the written symbols are those of the Gold sequence with R136's initialiser. -/
theorem dmrsGenWritesDmrs : Obligations.DmrsGenWritesDmrs := by
  unfold Obligations.DmrsGenWritesDmrs
  intro ncell issb nhf s hncell hlo hhi hdst
  have hok : commandError (.dmrsGen ncell issb nhf) s = none :=
    commandError_one (by rw [fieldChecks, check_pass hncell, Snapshot.lMaxLegal_eq, check_pass ⟨hlo, hhi⟩]; rfl) rfl
      hdst.1 hdst.2
  obtain ⟨t, hexec, hframe, hkeeps, hwords⟩ := exec_writesSamples (dmrs_length ..) (exec_dmrsGen_ok hok)
  refine ⟨t, hexec, hframe, hkeeps, fun ip hip x1 x2 h1 h2 m hm => ?_⟩
  subst hip
  rw [hwords m hm, dmrs, qpskPairs_getD_word _ (by rw [prsg_length]; omega)]
  simp only [dmrsCinit, dmrsIndex]
  rw [prsg_getD _ _ x1 x2 h1 h2, prsg_getD _ _ x1 x2 h1 h2, if_pos (by omega), if_pos (by omega)]

/-! ### The obligations of 41_modulator.md: QPSK_MOD and QPSK_DEMOD -/

/-- Settles O6: the written symbols are those of the bits read at `SRC0`. -/
theorem qpskModMapsBitPairs : Obligations.QpskModMapsBitPairs := by
  unfold Obligations.QpskModMapsBitPairs
  intro s heven hsrc hdst hapart
  have hok : commandError .qpskMod s = none :=
    commandError_two (by rw [fieldChecks, check_pass heven]; rfl) rfl rfl rfl ⟨hsrc, hdst, hapart⟩
  obtain ⟨t, hexec, hframe, hkeeps, hwords⟩ :=
    exec_writesSamples (by rw [qpskPairs_length, State.readBits_length]) (exec_qpskMod_ok hok)
  refine ⟨t, hexec, hframe, hkeeps, fun i hi => ?_⟩
  rw [hwords i hi, qpskPairs_getD_word _ (by rwa [State.readBits_length]), State.readBits_getD s _ (by omega),
    State.readBits_getD s _ (by omega)]

/-- Settles O7: the written bits are the signs of the samples read at `SRC0`. -/
theorem qpskDemodTakesSigns : Obligations.QpskDemodTakesSigns := by
  unfold Obligations.QpskDemodTakesSigns
  intro s hsrc hdst hapart
  have hok : commandError .qpskDemod s = none := commandError_two rfl rfl rfl rfl ⟨hsrc, hdst, hapart⟩
  obtain ⟨t, hexec, hframe, hkeeps, hbits⟩ :=
    exec_writesBits (by rw [flatMap_pairs_length demod (fun _ => rfl), State.readSamples_length])
      (exec_qpskDemod_ok hok)
  refine ⟨t, hexec, hframe, hkeeps, fun i hi => ?_⟩
  rw [hbits i hi, demod_readSamples_getD]

end Sys2Proof.Machine
end

section
/-!
What the resource-element mapper writes: SSB grids entry by entry, the words gathered from one, and the rows of a
resource grid (42_mapper.md R171 to R192).
-/

namespace Sys2Proof.Machine

/-! ### Grids at `DST0` -/

@[simp] theorem Sample.word_zero : Sample.zero.word = 0#32 := by decide

theorem gridAddr_eq (a : Nat) (p : Nat × Nat) : gridAddr a p = a + 4 * gridIndex p := rfl

theorem gridIndex_lt {k l : Nat} (hk : k < 240) (hl : l < 4) : gridIndex (k, l) < 960 := by
  simp only [gridIndex]
  omega

/-- A command that writes a grid at `a` leaves every other byte, and each word is its position's sample (R66). -/
theorem exec_writesGrid {i : Instr} {s : State} {a : Nat} {g : Grid} (hlength : g.length = 960)
    (hexec : exec i s = .next (succeedCommand (s.writeGrid a g))) :
    ∃ t, exec i s = .next t ∧ SucceedsWriting s t ∧ KeepsOutside s t a 960 ∧
      ∀ p, gridIndex p < 960 → t.memRead (gridAddr a p) = (gridAt g p).word := by
  obtain ⟨t, ht, hframe, hkeeps, hwords⟩ := exec_writesSamples hlength hexec
  exact ⟨t, ht, hframe, hkeeps, fun p hp => hwords _ hp⟩

/-! ### PSS and SSS positions (R171) -/

/-- The grid of MAP_PSS or MAP_SSS of samples from DMEM, word by word. -/
theorem gridAt_syncGrid_word (s : State) (a : Nat) {l0 k l : Nat} (hl0 : l0 < 4) (hk : k < 240) (hl : l < 4) :
    (gridAt (syncGrid l0 (s.readSamples a 127)) (k, l)).word =
      if l = l0 ∧ 56 ≤ k ∧ k < 183 then s.memRead (a + 4 * (k - 56)) else 0#32 := by
  rw [syncGrid, gridAt_sync l0 hl0 _ zeroGrid_length _ (State.readSamples_length ..) k l hk hl, gridAt_zeroGrid]
  split
  · exact readSamples_getD_word s a 127 (k - 56) (by omega)
  · exact Sample.word_zero

/-! ### PBCH and DM-RS positions (R172, R173) -/

theorem gridIndex_pbchPos_lt {nu i : Nat} (hnu : nu < 4) (hi : i < 432) : gridIndex (pbchPos nu i) < 960 :=
  gridIndex_lt_of_scan (pbch_scan (pbchPos_mem nu i hnu hi))

theorem gridIndex_dmrsPos_lt {nu j : Nat} (hnu : nu < 4) (hj : j < 144) : gridIndex (dmrsPos nu j) < 960 :=
  gridIndex_lt_of_scan (dmrs_scan (dmrsPos_mem nu j hnu hj))

/-- Every position of the scan is a PBCH or a DM-RS position in closed form (R172, R173). -/
theorem scan_cases {nu : Nat} (hnu : nu < 4) {q : Nat × Nat} (hq : q ∈ scan) :
    (∃ i < 432, pbchPos nu i = q) ∨ ∃ j < 144, dmrsPos nu j = q := by
  by_cases hmod : q.1 % 4 = nu
  · have hmem := (mem_dmrsIdx nu q).2 ⟨hq, hmod⟩
    rw [dmrsIdx_closed nu hnu, List.mem_map] at hmem
    obtain ⟨j, hj, hpos⟩ := hmem
    exact .inr ⟨j, List.mem_range.1 hj, hpos⟩
  · have hmem := (mem_pbchIdx nu q).2 ⟨hq, hmod⟩
    rw [pbchIdx_closed nu hnu, List.mem_map] at hmem
    obtain ⟨i, hi, hpos⟩ := hmem
    exact .inl ⟨i, List.mem_range.1 hi, hpos⟩

/-- On the scan, the grid that PBCH and DM-RS were placed in does not show. -/
theorem gridAt_place_scan {g g' : Grid} (hg : g.length = 960) (hg' : g'.length = 960) {nu : Nat} (hnu : nu < 4)
    {p d : List Sample} (hp : p.length = 432) (hd : d.length = 144) {q : Nat × Nat} (hq : q ∈ scan) :
    gridAt (place (place g (pbchIdx nu) p) (dmrsIdx nu) d) q =
      gridAt (place (place g' (pbchIdx nu) p) (dmrsIdx nu) d) q := by
  obtain ⟨hpbch, hdmrs, _⟩ := gridAt_place_pbch g hg nu hnu p d hp hd
  obtain ⟨hpbch', hdmrs', _⟩ := gridAt_place_pbch g' hg' nu hnu p d hp hd
  rcases scan_cases hnu hq with ⟨i, hi, rfl⟩ | ⟨j, hj, rfl⟩
  · rw [hpbch i hi, hpbch' i hi]
  · rw [hdmrs j hj, hdmrs' j hj]

/-! ### The SSB grid (R174, R187) -/

/-- The PSS and the SSS placed in an empty grid: SSB_GEN's grid before PBCH and DM-RS. -/
def syncsGrid (par : Params) (nid1 nid2 : Nat) : Grid :=
  place (syncGrid 0 ((pss par nid2).map bipolar)) (syncIdx 2) ((sss par nid1 nid2).map bipolar)

theorem syncsGrid_length (par : Params) (nid1 nid2 : Nat) : (syncsGrid par nid1 nid2).length = 960 := by
  rw [syncsGrid, place_length, syncGrid_length]

/-- SSB_GEN's grid is PBCH and DM-RS placed over PSS and SSS (R187). -/
theorem ssbGrid_eq (par : Params) (nid1 nid2 lMax issb nhf : Nat) (p : List Sample) :
    ssbGrid par nid1 nid2 lMax issb nhf p =
      place (place (syncsGrid par nid1 nid2) (pbchIdx ((3 * nid1 + nid2) % 4)) p) (dmrsIdx ((3 * nid1 + nid2) % 4))
        (dmrs issb (3 * nid1 + nid2) lMax nhf) := rfl

/-- A sample of the PSS and SSS grid. -/
theorem gridAt_syncsGrid (par : Params) (nid1 nid2 : Nat) {k l : Nat} (hk : k < 240) (hl : l < 4) :
    gridAt (syncsGrid par nid1 nid2) (k, l) =
      if l = 2 ∧ 56 ≤ k ∧ k < 183 then ((sss par nid1 nid2).map bipolar).getD (k - 56) Sample.zero
      else if l = 0 ∧ 56 ≤ k ∧ k < 183 then ((pss par nid2).map bipolar).getD (k - 56) Sample.zero
      else Sample.zero := by
  rw [syncsGrid, gridAt_sync 2 (by decide) _ (syncGrid_length ..) _ (by rw [List.length_map, sss_length]) k l hk hl,
    syncGrid, gridAt_sync 0 (by decide) _ zeroGrid_length _ (by rw [List.length_map, pss_length]) k l hk hl,
    gridAt_zeroGrid]

/-- The word of a bipolar entry, by its place in the list. -/
theorem map_bipolar_getD_zero_word (ds : List Int) {n : Nat} (h : n < ds.length) :
    ((ds.map bipolar).getD n Sample.zero).word = (bipolar (ds.getD n 0)).word := by
  rw [map_bipolar_getD_word ds h, List.getD_eq_getElem]

/-- Outside the scan, a grid of PBCH and DM-RS is the grid they were placed in. -/
theorem gridAt_ssbGrid_outside (par : Params) (nid1 nid2 lMax issb nhf : Nat) {p : List Sample} (hp : p.length = 432)
    {k l : Nat} (hk : k < 240) (hout : (k, l) ∉ scan) :
    gridAt (ssbGrid par nid1 nid2 lMax issb nhf p) (k, l) = gridAt (syncsGrid par nid1 nid2) (k, l) := by
  obtain ⟨_, _, houtside⟩ := gridAt_place_pbch _ (syncsGrid_length par nid1 nid2) ((3 * nid1 + nid2) % 4)
    (Nat.mod_lt _ (by decide)) p _ hp (dmrs_length issb (3 * nid1 + nid2) lMax nhf)
  exact houtside (k, l) hk hout

/-! ### Gathered words (R180, R183) -/

/-- A word gathered from a grid in DMEM. -/
theorem gather_getD_word (s : State) (a : Nat) {idx : List (Nat × Nat)} {i : Nat} {p : Nat × Nat}
    (hp : idx[i]? = some p) (hlt : gridIndex p < 960) :
    ((gather (s.readGrid a) idx).getD i Sample.zero).word = s.memRead (gridAddr a p) := by
  obtain ⟨hi, rfl⟩ := List.getElem?_eq_some_iff.1 hp
  have hlen : i < (gather (s.readGrid a) idx).length := by rwa [gather_length]
  rw [List.getD_eq_getElem _ _ hlen, gather_word s a idx i hlen hlt]

theorem pbchIdx_getElem? {nu i : Nat} (hnu : nu < 4) (hi : i < 432) : (pbchIdx nu)[i]? = some (pbchPos nu i) := by
  rw [pbchIdx_closed nu hnu, List.getElem?_map, List.getElem?_range hi, Option.map_some]

theorem dmrsIdx_getElem? {nu j : Nat} (hnu : nu < 4) (hj : j < 144) : (dmrsIdx nu)[j]? = some (dmrsPos nu j) := by
  rw [dmrsIdx_closed nu hnu, List.getElem?_map, List.getElem?_range hj, Option.map_some]

/-! ### The rows of MAP_SSB (R191) -/

/-- Symbol `l` of the SSB starts `l` symbols of the resource grid after its first. -/
theorem Snapshot.resourceAddr_add (S : Snapshot) (koff loff l : Nat) :
    S.resourceAddr koff (loff + l) = S.resourceAddr koff loff + 4 * (S.nSc * l) := by
  simp only [Snapshot.resourceAddr, Nat.mul_add]
  omega

/-- Subcarrier `koff + k` lies `k` words after subcarrier `koff` of its symbol. -/
theorem Snapshot.resourceAddr_subcarrier (S : Snapshot) (koff k l : Nat) :
    S.resourceAddr koff l + 4 * k = S.dst0.toNat + 4 * (12 * S.cfg.nRb.toNat * l + (koff + k)) := by
  simp only [Snapshot.resourceAddr, Snapshot.nSc]
  omega

/-- MAP_SSB's writes of the first `n` symbols. -/
def ssbRows (s : State) (koff loff : Nat) (g : Grid) (n : Nat) : State :=
  (List.range n).foldl (fun t l => t.writeSamples (s.snap.resourceAddr koff (loff + l)) (gridColumn g l)) s

theorem writeSsb_eq_ssbRows (s : State) (koff loff : Nat) (g : Grid) :
    writeSsb s koff loff g = ssbRows s koff loff g 4 := rfl

theorem ssbRows_succ (s : State) (koff loff : Nat) (g : Grid) (n : Nat) :
    ssbRows s koff loff g (n + 1) =
      (ssbRows s koff loff g n).writeSamples (s.snap.resourceAddr koff (loff + n)) (gridColumn g n) := by
  rw [ssbRows, List.range_succ, List.foldl_append]
  rfl

/-- A word of a written row: later rows lie above it, since a symbol holds the SSB's 240 subcarriers. -/
theorem ssbRows_memRead (s : State) (koff loff : Nat) {g : Grid} (hg : g.length = 960) (hnSc : 240 ≤ s.snap.nSc)
    {k l n : Nat} (hk : k < 240) (hl : l < n) (hn : n ≤ 4) :
    (ssbRows s koff loff g n).memRead (s.snap.resourceAddr koff (loff + l) + 4 * k) = (gridAt g (k, l)).word := by
  induction n with
  | zero => omega
  | succ n ih =>
    have hn4 : n < 4 := by omega
    rw [ssbRows_succ]
    rcases Nat.lt_succ_iff_lt_or_eq.1 hl with hln | rfl
    · have hstep : s.snap.nSc * (l + 1) ≤ s.snap.nSc * n := Nat.mul_le_mul_left _ hln
      rw [Nat.mul_add_one] at hstep
      rw [State.memRead_writeSamples_outside, ih hln (by omega)]
      rw [Snapshot.resourceAddr_add, Snapshot.resourceAddr_add]
      omega
    · have hlen : k < (gridColumn g l).length := by rwa [gridColumn_length g hg l hn4]
      rw [State.memRead_writeSamples _ _ _ k hlen, gridColumn_getElem g hg k l hk hn4 hlen]

/-- A byte outside the written rows reads as before. -/
theorem ssbRows_byteAt_outside (s : State) (koff loff : Nat) {g : Grid} (hg : g.length = 960) {x n : Nat} (hn : n ≤ 4)
    (hx : ∀ l, l < 4 → x < s.snap.resourceAddr koff (loff + l) ∨ s.snap.resourceAddr koff (loff + l) + 960 ≤ x) :
    (ssbRows s koff loff g n).byteAt x = s.byteAt x := by
  induction n with
  | zero => rfl
  | succ n ih =>
    have hn4 : n < 4 := by omega
    rw [ssbRows_succ, State.byteAt_writeSamples_outside, ih (by omega)]
    rw [gridColumn_length g hg n hn4]
    exact hx n hn4

/-! ### The obligations of 42_mapper.md -/

/-- Settles O8: the grid is empty but for the PSS positions of symbol 0. -/
theorem mapPssPlacesOnSymbolZero : Obligations.MapPssPlacesOnSymbolZero := by
  unfold Obligations.MapPssPlacesOnSymbolZero
  intro s hsrc hdst hapart
  have hok : commandError .mapPss s = none := commandError_two rfl rfl rfl rfl ⟨hsrc, hdst, hapart⟩
  obtain ⟨t, hexec, hframe, hkeeps, hwords⟩ := exec_writesGrid (syncGrid_length ..) (exec_mapPss_ok hok)
  refine ⟨t, hexec, hframe, hkeeps, fun k l hk hl => ?_⟩
  rw [hwords (k, l) (gridIndex_lt hk hl), gridAt_syncGrid_word s _ (by decide) hk hl]

/-- Settles O9: the grid is empty but for the SSS positions of symbol 2. -/
theorem mapSssPlacesOnSymbolTwo : Obligations.MapSssPlacesOnSymbolTwo := by
  unfold Obligations.MapSssPlacesOnSymbolTwo
  intro s hsrc hdst hapart
  have hok : commandError .mapSss s = none := commandError_two rfl rfl rfl rfl ⟨hsrc, hdst, hapart⟩
  obtain ⟨t, hexec, hframe, hkeeps, hwords⟩ := exec_writesGrid (syncGrid_length ..) (exec_mapSss_ok hok)
  refine ⟨t, hexec, hframe, hkeeps, fun k l hk hl => ?_⟩
  rw [hwords (k, l) (gridIndex_lt hk hl), gridAt_syncGrid_word s _ (by decide) hk hl]

/-- Settles O10: each table is its closed form, and positions outside the scan stay empty. -/
theorem mapPbchPlacesInScanOrder : Obligations.MapPbchPlacesInScanOrder := by
  unfold Obligations.MapPbchPlacesInScanOrder
  intro nu s hnu hsrc0 hsrc1 hdst hapart0 hapart1
  have hok : commandError (.mapPbch nu) s = none :=
    commandError_two_src rfl rfl rfl rfl rfl ⟨hsrc0, hsrc1, hdst, hapart0, hapart1⟩
  obtain ⟨t, hexec, hframe, hkeeps, hwords⟩ := exec_writesGrid (pbchGrid_length ..) (exec_mapPbch_ok hok)
  obtain ⟨hpbch, hdmrs, hout⟩ := gridAt_place_pbch zeroGrid zeroGrid_length nu hnu
    (s.readSamples s.snap.src0.toNat 432) (s.readSamples s.snap.src1.toNat 144) (State.readSamples_length ..)
    (State.readSamples_length ..)
  refine ⟨t, hexec, hframe, hkeeps, fun i hi => ?_, fun j hj => ?_, fun k l hk hl hkl => ?_⟩
  · rw [hwords _ (gridIndex_pbchPos_lt hnu hi), pbchGrid, hpbch i hi, readSamples_getD_word s _ 432 i hi]
  · rw [hwords _ (gridIndex_dmrsPos_lt hnu hj), pbchGrid, hdmrs j hj, readSamples_getD_word s _ 144 j hj]
  · rw [hwords _ (gridIndex_lt hk hl), pbchGrid, hout (k, l) hk (outside_not_scan hkl), gridAt_zeroGrid,
      Sample.word_zero]

/-- Settles O11: the written words are those gathered from symbol 2 of the input grid. -/
theorem unmapSssExtractsSymbolTwo : Obligations.UnmapSssExtractsSymbolTwo := by
  unfold Obligations.UnmapSssExtractsSymbolTwo
  intro s hsrc hdst hapart
  have hok : commandError .unmapSss s = none := commandError_two rfl rfl rfl rfl ⟨hsrc, hdst, hapart⟩
  obtain ⟨t, hexec, hframe, hkeeps, hwords⟩ :=
    exec_writesSamples (by rw [gather_length, syncIdx_length]) (exec_unmapSss_ok hok)
  refine ⟨t, hexec, hframe, hkeeps, fun n hn => ?_⟩
  have hpos : (syncIdx 2)[n]? = some (56 + n, 2) := by
    rw [List.getElem?_eq_getElem (by rwa [syncIdx_length]), syncIdx_getElem]
  rw [hwords n hn, gather_getD_word s _ hpos (gridIndex_lt (by omega) (by decide))]

/-- Settles O12: the two outputs are gathered from the input grid by the closed-form tables. -/
theorem unmapPbchExtractsInScanOrder : Obligations.UnmapPbchExtractsInScanOrder := by
  unfold Obligations.UnmapPbchExtractsInScanOrder
  intro nu s hnu hsrc hdst0 hdst1 hapart0 hapart1 hapart
  have hok : commandError (.unmapPbch nu) s = none :=
    commandError_two_dst rfl rfl rfl rfl rfl ⟨hsrc, hdst0, hdst1, hapart0, hapart1, hapart⟩
  have hexec := exec_unmapPbch_ok hok
  obtain ⟨hpbch, hdmrs⟩ := readSamples_of_unmapPbch hnu hok hexec
  refine ⟨_, hexec, exec_succeedsWriting hexec hok nofun nofun nofun, fun x hx0 hx1 => ?_, fun i hi => ?_,
    fun j hj => ?_⟩
  · have hwithin := exec_writesWithin (i := .unmapPbch nu) (decide_eq_true hnu) hexec nofun
    refine hwithin.byteAt_eq ((not_inOutputs_iff _ x).2 ?_)
    simp only [namedRegions, List.forall_mem_cons, List.not_mem_nil, false_imp_iff, implies_true, and_true]
    exact ⟨nofun, fun _ => hx0, fun _ => hx1⟩
  · rw [← readSamples_getD_word _ _ 432 i hi, hpbch,
      gather_getD_word s _ (pbchIdx_getElem? hnu hi) (gridIndex_pbchPos_lt hnu hi)]
  · rw [← readSamples_getD_word _ _ 144 j hj, hdmrs,
      gather_getD_word s _ (dmrsIdx_getElem? hnu hj) (gridIndex_dmrsPos_lt hnu hj)]

/-- Settles O13: PBCH and DM-RS stand at their positions of the scan, and PSS and SSS show outside it. -/
theorem ssbGenComposesSsb : Obligations.SsbGenComposesSsb := by
  unfold Obligations.SsbGenComposesSsb
  intro nid1 nid2 issb nhf s hnid1 hnid2 hlo hhi hsrc hdst hapart
  have hok : commandError (.ssbGen nid1 nid2 issb nhf) s = none :=
    commandError_two (by
      rw [fieldChecks, check_pass hnid1, check_pass hnid2, Snapshot.lMaxLegal_eq, check_pass ⟨hlo, hhi⟩]; rfl)
      rfl rfl rfl ⟨hsrc, hdst, hapart⟩
  obtain ⟨t, hexec, hframe, hkeeps, hwords⟩ := exec_writesGrid (ssbGrid_length ..) (exec_ssbGen_ok hok)
  have hnu : (3 * nid1 + nid2) % 4 < 4 := Nat.mod_lt _ (by decide)
  have hinput : (s.readSamples s.snap.src0.toNat 432).length = 432 := State.readSamples_length ..
  obtain ⟨hpbch, hdmrs, _⟩ := gridAt_place_pbch _ (syncsGrid_length s.params nid1 nid2) _ hnu _ _ hinput
    (dmrs_length issb (3 * nid1 + nid2) s.snap.cfg.lMax.toNat nhf)
  have hsync {k l : Nat} (hk : k < 240) (hl : l < 4) (hkl : OutsideScan (k, l)) :
      t.memRead (gridAddr s.snap.dst0.toNat (k, l)) = (gridAt (syncsGrid s.params nid1 nid2) (k, l)).word := by
    rw [hwords _ (gridIndex_lt hk hl), gridAt_ssbGrid_outside _ _ _ _ _ _ hinput hk (outside_not_scan hkl)]
  refine ⟨t, hexec, hframe, hkeeps, fun n hn => ?_, fun n hn => ?_, fun i hi => ?_, fun j hj => ?_,
    fun k l hk hl hkl => ?_⟩
  · rw [hsync (by omega) (by decide) (.inl rfl), gridAt_syncsGrid _ _ _ (by omega) (by decide), if_neg (by omega),
      if_pos (by omega), Nat.add_sub_cancel_left, map_bipolar_getD_zero_word _ (by rwa [pss_length])]
  · rw [hsync (by omega) (by decide) (.inr ⟨rfl, by simp only; omega, by simp only; omega⟩),
      gridAt_syncsGrid _ _ _ (by omega) (by decide), if_pos (by omega), Nat.add_sub_cancel_left,
      map_bipolar_getD_zero_word _ (by rwa [sss_length])]
  · rw [hwords _ (gridIndex_pbchPos_lt hnu hi), ssbGrid_eq, hpbch i hi, readSamples_getD_word s _ 432 i hi]
  · rw [hwords _ (gridIndex_dmrsPos_lt hnu hj), ssbGrid_eq, hdmrs j hj]
  · have hout : OutsideScan (k, l) := by simp only [OutsideScan]; omega
    rw [hsync hk hl hout, gridAt_syncsGrid _ _ _ hk hl, if_neg (by omega), if_neg (by omega), Sample.word_zero]

/-- Settles O14: each symbol of the SSB is one row, and the rows are disjoint. -/
theorem mapSsbWritesAtOffsets : Obligations.MapSsbWritesAtOffsets := by
  unfold Obligations.MapSsbWritesAtOffsets
  intro koff loff s hlo hhi hmu hk hl hsrc halign hrange hapart
  have hfields : firstError (fieldChecks (.mapSsb koff loff) s.snap s.det) = none := by
    rw [fieldChecks, Snapshot.nRbLegal_eq, Snapshot.muLegal_eq, Snapshot.nSymb_eq, Snapshot.nSc, check_pass ⟨hlo, hhi⟩,
      check_pass hmu, check_pass hk, check_pass hl]
    rfl
  have hok : commandError (.mapSsb koff loff) s = none :=
    commandError_two hfields rfl rfl rfl ⟨hsrc, ⟨halign, hrange⟩, hapart⟩
  have hexec := exec_mapSsb_ok hok
  have hgrid : (s.readGrid s.snap.src0.toNat).length = 960 := State.readGrid_length ..
  refine ⟨_, hexec, exec_succeedsWriting hexec hok nofun nofun nofun, fun k l hk' hl' => ?_, fun x hx => ?_⟩
  · have hnSc : 240 ≤ s.snap.nSc := (Nat.le_add_left 240 koff).trans hk
    rw [← Snapshot.resourceAddr_subcarrier, State.memRead_congr (succeedCommand_mem _), writeSsb_eq_ssbRows,
      ssbRows_memRead s koff loff hgrid hnSc hk' hl' le_rfl,
      gridAt_readGrid s _ _ (gridIndex_lt hk' hl'), Sample.word_ofWord, gridAddr_eq]
  · rw [State.byteAt_congr (succeedCommand_mem _), writeSsb_eq_ssbRows,
      ssbRows_byteAt_outside s koff loff hgrid le_rfl hx]

/-- Settles O54: on the scan only PBCH and DM-RS are not zero, outside it only the PSS or the SSS, which are apart. -/
theorem ssbGridIsSumOfParts : Obligations.SsbGridIsSumOfParts := by
  unfold Obligations.SsbGridIsSumOfParts
  intro p nid1 nid2 lMax issb nhf k l pbch hpbch hk hl
  have hnu : (3 * nid1 + nid2) % 4 < 4 := Nat.mod_lt _ (by decide)
  have hdmrs := dmrs_length issb (3 * nid1 + nid2) lMax nhf
  have hzero : Sample.zero.i.toInt = 0 ∧ Sample.zero.q.toInt = 0 := by decide
  dsimp only
  rw [syncGrid, syncGrid, gridAt_sync 0 (by decide) _ zeroGrid_length _ (by rw [List.length_map, pss_length]) k l hk hl,
    gridAt_sync 2 (by decide) _ zeroGrid_length _ (by rw [List.length_map, sss_length]) k l hk hl, gridAt_zeroGrid]
  by_cases hscan : (k, l) ∈ scan
  · obtain ⟨_, hl1, _, hgap⟩ := (mem_scan _).1 hscan
    simp only at hl1 hgap
    rw [ssbGrid_eq, pbchGrid, gridAt_place_scan (syncsGrid_length ..) zeroGrid_length hnu hpbch hdmrs hscan,
      if_neg (by omega), if_neg (by omega)]
    simp only [hzero, zero_add, and_self]
  · obtain ⟨_, _, hout⟩ := gridAt_place_pbch zeroGrid zeroGrid_length _ hnu pbch _ hpbch hdmrs
    rw [gridAt_ssbGrid_outside p nid1 nid2 lMax issb nhf hpbch hk hscan, gridAt_syncsGrid p nid1 nid2 hk hl, pbchGrid,
      hout (k, l) hk hscan, gridAt_zeroGrid]
    split
    · next hsss =>
      rw [if_neg (by omega)]
      simp only [hzero, zero_add, add_zero, and_self]
    · simp only [hzero, add_zero, and_self]

end Sys2Proof.Machine
end

section
/-!
The correlation engine's commands: the detector's life from a trigger over collection to emission, its reset, and the
SSS search (43_correlator.md R211 to R226).
-/

namespace Sys2Proof.Machine

/-! ### The metric (R213) -/

/-- The metric is the sum of the squares of the correlation's parts. -/
theorem metric_eq (c : Int × Int) : (metric c : Int) = c.1 * c.1 + c.2 * c.2 := by
  simp only [metric, Nat.cast_add, Nat.cast_pow, Int.natCast_natAbs, sq_abs]
  ring

/-- A correlation with a bipolar reference: its parts, its metric and their bounds (R213). -/
theorem corr_bounds {ref : List Int} (hlength : ref.length ≤ 127) (href : ∀ d ∈ ref, d = 1 ∨ d = -1) (y : List Sample)
    (sh : Nat) :
    (corr ref y sh).1.natAbs ≤ 4161536 ∧ (corr ref y sh).2.natAbs ≤ 4161536 ∧
      (metric (corr ref y sh) : Int) = (corr ref y sh).1 * (corr ref y sh).1 + (corr ref y sh).2 * (corr ref y sh).2 ∧
      metric (corr ref y sh) ≤ 34636763758592 ∧ metric (corr ref y sh) < 2 ^ 45 := by
  have hmetric := metric_corr_le ref y sh hlength href
  exact ⟨bipolar_sum_le ref (y.drop sh) Sample.i hlength href, bipolar_sum_le ref (y.drop sh) Sample.q hlength href,
    metric_eq _, hmetric, hmetric.trans_lt (by decide)⟩

/-- The metric of an SSS hypothesis fits `SSS_CORR` (R35, R213). -/
theorem sssMetric_lt (p : Params) (y : List Sample) (nid2 a : Nat) : sssMetric p y nid2 a < 2 ^ 64 := by
  have hle : sssMetric p y nid2 a ≤ 34636763758592 := metric_corr_le _ _ _ (sss_length ..).le fun _ => sss_mem
  exact hle.trans_lt (by decide)

/-! ### The parts of a step that leave the detector's results -/

@[simp] theorem triggerStep_detRes (s : State) (r : Sweep) : (triggerStep s r).detRes = s.detRes := by
  rw [triggerStep_eq]

@[simp] theorem triggerStep_detValid (s : State) (r : Sweep) :
    (triggerStep s r).status.detValid = s.status.detValid := by
  rw [triggerStep_eq]

@[simp] theorem triggerStep_detOvf (s : State) (r : Sweep) : (triggerStep s r).status.detOvf = s.status.detOvf := by
  rw [triggerStep_eq]

/-- A step that does not trigger reaches its collection with the detector as it was (R216). -/
theorem triggerStep_det_of_not_triggers {s : State} (h : ¬ s.Triggers) :
    (triggerStep (latchSweep s s.sweepResult) s.sweepResult).det = s.det := by
  rcases triggerStep_of_not_triggers h with e | e
  · rw [e, latchSweep_det]
  · rw [e, State.setPeakOob_det, latchSweep_det]

/-- While searching there is nothing to collect (R218). -/
theorem collectAndEmit_of_searching {u : State} (h : u.det.srem = .searching) (y : List Sample) :
    collectAndEmit u y = u := by
  rcases collectAndEmit_cases u y with ⟨_, e⟩ | ⟨_, hk, _, _⟩ | ⟨hk, _⟩
  · exact e
  · simp [h] at hk
  · simp [h] at hk

/-- Before the last column, a collection only collects (R218). -/
theorem collectAndEmit_of_collecting {u : State} {k : Fin 4} (h : u.det.srem = .collecting k) (hk : k ≠ 0)
    (y : List Sample) : collectAndEmit u y = { u with det := u.det.collect y } := by
  rcases collectAndEmit_cases u y with ⟨hs, _⟩ | ⟨_, _, _, e⟩ | ⟨hs, _⟩
  · simp [h] at hs
  · exact e
  · exact absurd (Srem.collecting.inj (h.symm.trans hs)) hk

/-- With the last column, a collection emits (R219). -/
theorem collectAndEmit_of_last {u : State} (h : u.det.srem = .collecting 0) (y : List Sample) :
    collectAndEmit u y = emit { u with det := u.det.collect y } := by
  rcases collectAndEmit_cases u y with ⟨hs, _⟩ | ⟨_, hs, hk, _⟩ | ⟨_, e⟩
  · simp [h] at hs
  · exact absurd (Srem.collecting.inj (hs.symm.trans h)) hk
  · exact e

/-- A collecting step does not emit: only the latch, PEAK_OOB, the detector, BUSY and DONE change (R218). -/
theorem collecting_frame {s : State} {r : Sweep} {k : Fin 4} (hk : k ≠ 0)
    (hsrem : (triggerStep (latchSweep s r) r).det.srem = .collecting k) (y : List Sample) :
    (succeedCommand (collectAndEmit (triggerStep (latchSweep s r) r) y)).detRes = s.detRes ∧
      (succeedCommand (collectAndEmit (triggerStep (latchSweep s r) r) y)).mem = s.mem ∧
      (succeedCommand (collectAndEmit (triggerStep (latchSweep s r) r) y)).status.detValid = s.status.detValid ∧
      (succeedCommand (collectAndEmit (triggerStep (latchSweep s r) r) y)).status.detOvf = s.status.detOvf := by
  rw [collectAndEmit_of_collecting hsrem hk]
  simp

/-- The detector that a step leaves: the decision's, with the symbol collected. -/
theorem step_det (s : State) :
    (succeedCommand (collectAndEmit (triggerStep (latchSweep s s.sweepResult) s.sweepResult) s.symbol)).det =
      (triggerStep (latchSweep s s.sweepResult) s.sweepResult).det.collect s.symbol := by
  rw [succeedCommand_det, collectAndEmit_det]

/-- Collection keeps the size of `BUF` (R41). -/
theorem Detector.collect_buf_length {d : Detector} {y : List Sample} (hbuf : d.buf.length = 960)
    (hwindow : d.srem ≠ .searching → d.kssb.toNat + 240 ≤ y.length) : (d.collect y).buf.length = 960 := by
  cases hsrem : d.srem with
  | searching => rwa [Detector.collect, hsrem]
  | collecting k =>
    obtain ⟨_, hlength, _⟩ := d.collect_spec y k hsrem hbuf (hwindow (by simp [hsrem]))
    exact hlength

/-- A detector step keeps the size of `BUF` (R41). -/
theorem detStep_buf_length {s t : State} (hready : DetReady s) (hbuf : s.det.buf.length = 960)
    (hexec : exec .detStep s = .next t) : t.det.buf.length = 960 := by
  obtain ⟨hsame, hwindow⟩ := triggerStep_window hready
  rw [exec_detStep_ready hready, Host.Outcome.next.injEq] at hexec
  rw [← hexec, step_det]
  exact Detector.collect_buf_length ((congrArg List.length hsame).trans hbuf) hwindow

/-- The counter after a trigger, from each detector state (R217). -/
theorem nextIssb_searching (issb lMax : Nat) : nextIssb .searching issb lMax = (issb + 1) % lMax := by
  rw [nextIssb]
  norm_cast

theorem nextIssb_collecting (k : Fin 4) (issb : Nat) {lMax : Nat} (h : 1 ≤ lMax) :
    (nextIssb (.collecting k) issb lMax : Int) = (((issb : Int) - 1) % lMax + 1) % lMax := by
  rw [nextIssb]
  exact Int.toNat_of_nonneg (Int.emod_nonneg _ (by omega))

/-! ### Emission (R219) -/

/-- What an emission writes: the buffer at `DST0` (R66, R219). -/
theorem emit_memRead (s : State) (hbuf : s.det.buf.length = 960) {k c : Nat} (hk : k < 240) (hc : c < 4) :
    (emit s).memRead (gridAddr s.snap.dst0.toNat (k, c)) = (s.det.bufAt k c).word :=
  State.memRead_writtenGrid s _ _ hbuf k c hk hc

theorem emit_detRes (s : State) : (emit s).detRes = ⟨s.det.nid2, s.det.issb, s.det.kssb⟩ := rfl

theorem emit_status (s : State) :
    (emit s).status = { s.status with detOvf := s.status.detOvf || s.status.detValid, detValid := true } := rfl

/-- DET_STATE shows the detector (R30). -/
theorem State.readReg_detState (s : State) : s.readReg 0x034 = s.det.word := rfl

/-- The step that collects the last column emits right after it, with the flags as they were (R218, R219). -/
theorem exec_detStep_emits {s : State} (hready : DetReady s) (hsrem : s.det.srem = .collecting 0)
    (htrig : ¬ s.Triggers) :
    ∃ u : State, u.det = s.det.collect s.symbol ∧ u.snap = s.snap ∧ u.status.detValid = s.status.detValid ∧
      u.status.detOvf = s.status.detOvf ∧ exec .detStep s = .next (succeedCommand (emit u)) := by
  have hdecide := triggerStep_det_of_not_triggers htrig
  have hexec := exec_detStep_ready hready
  rw [collectAndEmit_of_last (by rw [hdecide, hsrem])] at hexec
  exact ⟨_, by rw [hdecide], by simp, by simp, by simp, hexec⟩

/-- A DET_STEP with legal operands writes no byte but the 960 words at `DST0` (R220). -/
theorem detStep_keepsOutside_of_exec {s t : State} (hready : DetReady s) (hbuf : s.det.buf.length = 960)
    (hexec : exec .detStep s = .next t) : KeepsOutside s t s.snap.dst0.toNat 960 := by
  rw [exec_detStep_ready hready, Host.Outcome.next.injEq] at hexec
  exact hexec ▸ detStep_keepsOutside hready hbuf

/-! ### The obligations of 43_correlator.md -/

/-- Settles O15: DET_RESET has no check, and its effect is the re-created detector. -/
theorem detResetRecreatesDetector : Obligations.DetResetRecreatesDetector := by
  unfold Obligations.DetResetRecreatesDetector
  intro issb s _
  exact exec_detReset_ok rfl

/-- Settles O52: a PSS and an SSS are bipolar references of 127 entries. -/
theorem metricIsBounded : Obligations.MetricIsBounded := by
  unfold Obligations.MetricIsBounded
  intro p y nid1 nid2 sh c hc
  rcases List.mem_pair.1 hc with rfl | rfl
  · exact corr_bounds (pss_length ..).le (fun _ => pss_mem) y sh
  · exact corr_bounds (sss_length ..).le (fun _ => sss_mem) y sh

/-- Settles O21: the search returns the first maximum, which fits the result registers. -/
theorem decodeSssFindsFirstMaximum : Obligations.DecodeSssFindsFirstMaximum := by
  unfold Obligations.DecodeSssFindsFirstMaximum
  intro nid2 s hnid2 hsrc
  have hok : commandError (.decodeSss nid2) s = none :=
    commandError_one (by rw [fieldChecks, check_pass hnid2]; rfl) rfl hsrc.1 hsrc.2
  obtain ⟨a, hsearch, ha, hbefore, hall⟩ := sssSearch_first_max s.params (s.readSamples s.snap.src0.toNat 127) nid2
  have hexec := exec_decodeSss_ok hok
  rw [hsearch] at hexec
  have hres : (BitVec.ofNat 9 a).toNat = a := (BitVec.toNat_ofNat ..).trans (Nat.mod_eq_of_lt (by omega))
  have hcorr : (BitVec.ofInt 64 (sssMetric s.params (s.readSamples s.snap.src0.toNat 127) nid2 a : Int)).toNat =
      sssMetric s.params (s.readSamples s.snap.src0.toNat 127) nid2 a := by
    rw [BitVec.ofInt_natCast, BitVec.toNat_ofNat, Nat.mod_eq_of_lt (sssMetric_lt ..)]
  refine ⟨_, a, hexec, ha, rfl, hres, hcorr, fun b hb => ?_, fun b hb => ?_⟩
  · exact (hbefore b hb).trans_eq hcorr.symm
  · exact (hall b hb).trans_eq hcorr.symm

/-- Settles O17: without a trigger and a collection the step only latches. -/
theorem detStepSearchingWithoutTrigger : Obligations.DetStepSearchingWithoutTrigger := by
  unfold Obligations.DetStepSearchingWithoutTrigger
  intro s hready hsrem htrig
  have hdet := triggerStep_det_of_not_triggers htrig
  refine ⟨_, exec_detStep_ready hready, ?_⟩
  rw [collectAndEmit_of_searching (by rw [hdet, hsrem])]
  exact ⟨(succeedCommand_det _).trans hdet, by simp, by simp, by simp, by simp, by simp⟩

/-- Settles O18: the trigger sets SREM to 3 with the peak as candidate, and the same step collects column 0. -/
theorem detStepTriggerStartsCollection : Obligations.DetStepTriggerStartsCollection := by
  unfold Obligations.DetStepTriggerStartsCollection
  intro s hready hbuf htrig
  obtain ⟨hsrem, hnid2, hkssb, hissb, hsame, hfits⟩ := Detector.trigger_spec htrig hready
  have hdecide : (triggerStep (latchSweep s s.sweepResult) s.sweepResult).det =
      s.det.trigger s.sweepResult s.snap.cfg.lMax.toNat := by rw [triggerStep_of_triggers htrig]
  have hdet := step_det s
  rw [hdecide] at hdet
  have hframe := collecting_frame (s := s) (by decide : (3 : Fin 4) ≠ 0) (by rw [hdecide, hsrem]) s.symbol
  obtain ⟨hcollect, _, hnew, hold⟩ := Detector.collect_spec _ s.symbol 3 hsrem (by rw [hsame, hbuf])
    (by rw [State.symbol_length]; exact hfits)
  refine ⟨_, exec_detStep_ready hready, ?srem, ?nid2, ?kssb, ?searching, ?collecting, ?column, ?others, hframe⟩
  case srem => rw [hdet, hcollect]; rfl
  case nid2 => rw [hdet, hcollect, ← hnid2]
  case kssb => rw [hdet, hcollect, ← hkssb]
  case searching =>
    intro hsearching
    rw [hdet, hcollect, ← nextIssb_searching, ← hsearching, ← hissb]
  case collecting =>
    intro hcollecting
    cases hs : s.det.srem with
    | searching => exact absurd hs hcollecting
    | collecting k =>
      rw [hdet, hcollect, ← nextIssb_collecting k _ hready.lMax.1, ← hs, ← hissb]
  case column =>
    intro k hk
    rw [hdet, ← State.symbol_getD s _ (by rw [hkssb] at hfits; omega), ← hkssb]
    exact hnew k hk
  case others =>
    intro k c hk hc hc4
    rw [hdet, hold k c hk hc4 (Nat.ne_of_gt hc)]
    simp only [Detector.bufAt, hsame]

/-- Settles O19: without a trigger the step collects the next column. -/
theorem detStepCollectsColumn : Obligations.DetStepCollectsColumn := by
  unfold Obligations.DetStepCollectsColumn
  intro s k hready hbuf hsrem hk htrig
  have hk0 : k ≠ 0 := by rcases hk with rfl | rfl <;> decide
  have hwindow := hready.window (by simp [hsrem])
  have hdecide := triggerStep_det_of_not_triggers htrig
  have hdet := step_det s
  rw [hdecide] at hdet
  have hframe := collecting_frame (s := s) hk0 (by rw [hdecide, hsrem]) s.symbol
  obtain ⟨hcollect, _, hnew, hold⟩ := s.det.collect_spec s.symbol k hsrem hbuf (by rwa [State.symbol_length])
  refine ⟨_, exec_detStep_ready hready, ?_, ?_, ?_, ?_, fun j hj => ?_, fun j c hj hc hne => ?_, hframe⟩
  · rw [hdet, hcollect]
    rcases hk with rfl | rfl <;> rfl
  · rw [hdet, hcollect]
  · rw [hdet, hcollect]
  · rw [hdet, hcollect]
  · rw [hdet, hnew j hj, State.symbol_getD s _ (by omega)]
  · rw [hdet, hold j c hj hc hne]

/-- Settles O20: without a trigger the step collects the last column and emits the buffer. -/
theorem detStepEmitsDetection : Obligations.DetStepEmitsDetection := by
  unfold Obligations.DetStepEmitsDetection
  intro s hready hbuf hsrem htrig
  have hwindow := hready.window (by simp [hsrem])
  obtain ⟨hcollect, hlength, hnew, hold⟩ := s.det.collect_spec s.symbol 0 hsrem hbuf (by rwa [State.symbol_length])
  obtain ⟨u, hdet, hsnap, hvalid, hovf, hexec⟩ := exec_detStep_emits hready hsrem htrig
  have hleft : (succeedCommand (emit u)).det = s.det.collect s.symbol := hdet
  have hword {k c : Nat} (hk : k < 240) (hc : c < 4) :
      (succeedCommand (emit u)).memRead (gridAddr s.snap.dst0.toNat (k, c)) =
        ((s.det.collect s.symbol).bufAt k c).word := by
    rw [State.memRead_congr (succeedCommand_mem _), ← hsnap, emit_memRead u (hdet ▸ hlength) hk hc, hdet]
  refine ⟨_, hexec, ?srem, ?issb, ?nid2, ?kssb, ?shown, ?detRes, ?valid, ?ovf, fun k c hk hc => ?before,
    fun k hk => ?last, detStep_keepsOutside_of_exec hready hbuf hexec⟩
  case srem => rw [hleft, hcollect]; rfl
  case issb => rw [hleft, hcollect]
  case nid2 => rw [hleft, hcollect]
  case kssb => rw [hleft, hcollect]
  case shown => rw [State.readReg_detState, hleft, hcollect]; rfl
  case detRes => rw [succeedCommand_detRes, emit_detRes, hdet, hcollect]
  case valid => rw [succeedCommand_status, emit_status]
  case ovf => rw [succeedCommand_status, emit_status, hovf, hvalid, Bool.or_eq_true]
  case before => rw [hword hk (by omega), hold k c hk (by omega) (Nat.ne_of_lt hc)]
  case last =>
    have hcolumn : (s.det.collect s.symbol).bufAt k 3 = s.symbol.getD (s.det.kssb.toNat + k) Sample.zero := hnew k hk
    rw [hword hk (by decide), hcolumn, State.symbol_getD s _ (by omega), Sample.word_ofWord]

/-- Settles O58: the trigger stores column 0 and the next three steps columns 1 to 3, none touches the columns before,
and the last emits them all with the trigger's candidate. -/
theorem detectorEmitsFourSymbols : Obligations.DetectorEmitsFourSymbols := by
  unfold Obligations.DetectorEmitsFourSymbols
  intro s1 t1 s2 t2 s3 t3 s4 hready1 hready2 hready3 hready4 hbuf1 htrig1 hexec1 hdet2 htrig2 hexec2 hdet3 htrig3 hexec3
    hdet4 htrig4
  have hbuf2 : s2.det.buf.length = 960 := hdet2 ▸ detStep_buf_length hready1 hbuf1 hexec1
  have hbuf3 : s3.det.buf.length = 960 := hdet3 ▸ detStep_buf_length hready2 hbuf2 hexec2
  have hbuf4 : s4.det.buf.length = 960 := hdet4 ▸ detStep_buf_length hready3 hbuf3 hexec3
  obtain ⟨u1, hu1, hsrem1, hnid1, hkssb1, _, _, hcol1, _⟩ := detStepTriggerStartsCollection s1 hready1 hbuf1 htrig1
  obtain rfl := Host.Outcome.next.inj (hu1.symm.trans hexec1)
  rw [← hdet2] at hsrem1 hnid1 hkssb1 hcol1
  obtain ⟨u2, hu2, hsrem2, hnid2, hkssb2, hissb2, hcol2, hold2, _⟩ :=
    detStepCollectsColumn s2 2 hready2 hbuf2 hsrem1 (.inr rfl) htrig2
  obtain rfl := Host.Outcome.next.inj (hu2.symm.trans hexec2)
  rw [← hdet3] at hsrem2 hnid2 hkssb2 hissb2 hcol2 hold2
  obtain ⟨u3, hu3, hsrem3, hnid3, hkssb3, hissb3, hcol3, hold3, _⟩ :=
    detStepCollectsColumn s3 1 hready3 hbuf3 hsrem2 (.inl rfl) htrig3
  obtain rfl := Host.Outcome.next.inj (hu3.symm.trans hexec3)
  rw [← hdet4] at hsrem3 hnid3 hkssb3 hissb3 hcol3 hold3
  obtain ⟨t4, hexec4, hsrem4, _, _, _, _, hdetRes, hvalid, _, hbefore, hlast, _⟩ :=
    detStepEmitsDetection s4 hready4 hbuf4 hsrem3 htrig4
  have hkssb4 : s4.det.kssb.toNat = s1.sweepResult.s - 56 := by rw [hkssb3, hkssb2, hkssb1]
  refine ⟨t4, hexec4, hvalid, hsrem4, ?_, ?_, ?_, fun k hk => ⟨?_, ?_, ?_, ?_⟩⟩
  · rw [hdetRes, hnid3, hnid2, hnid1]
  · rw [hdetRes, hkssb4]
  · rw [hdetRes, hissb3, hissb2, hdet2]
  · rw [hbefore k 0 hk (by decide), hold3 k 0 hk (by decide) (by decide), hold2 k 0 hk (by decide) (by decide),
      hcol1 k hk, Sample.word_ofWord]
  · have hcol := hcol2 k hk
    rw [hkssb1] at hcol
    rw [hbefore k 1 hk (by decide), hold3 k 1 hk (by decide) (by decide), ← Sample.word_ofWord (s2.memRead _), ← hcol]
    rfl
  · have hcol := hcol3 k hk
    rw [hkssb2, hkssb1] at hcol
    rw [hbefore k 2 hk (by decide), ← Sample.word_ofWord (s3.memRead _), ← hcol]
    rfl
  · rw [hlast k hk, hkssb4]

end Sys2Proof.Machine
end
